-- ==== Sys2Proof/Word.lean ====
section
/-! DEFINITION. The word types of the ATmega328P core and their plainest arithmetic (spec R5, R7 to R9, R25, R33).
A bit vector stands where the spec adds, shifts, masks or stores bits; memory keys are plain `Nat`. -/

namespace Sys2Proof

/-- One byte: the width of a general register, of SREG and of a data-space cell (R5 `REGW`, R38). -/
abbrev Byte := BitVec 8

/-- One program word, and any 16-bit quantity built from two bytes: a register pair, SP, the second word of an
instruction (R5 `IWORD`, R21, R33). -/
abbrev Word := BitVec 16

/-- The number of a general register, `r0` to `r31`: the 5-bit register field of R110. -/
abbrev Reg := BitVec 5

/-- A program-memory word address of `PC_BITS` = 14 bits (R25): arithmetic on it is modulo 0x4000 (R27). -/
abbrev ProgAddr := BitVec 14

/-- A data-space byte address, 16 bits (R12, R38). -/
abbrev DataAddr := BitVec 16

/-- Bits 7..0 of a 16-bit value. -/
abbrev lowByte (w : Word) : Byte := w.extractLsb' 0 8

/-- Bits 15..8 of a 16-bit value. -/
abbrev highByte (w : Word) : Byte := w.extractLsb' 8 8

/-- `hi :: lo`, the 16-bit value of two bytes (R7). -/
abbrev pairOf (hi lo : Byte) : Word := hi ++ lo

end Sys2Proof
end

