-- ==== Sys2Proof/Syntax.lean ====
section
/-! DEFINITION. The instructions: one constructor per row of spec/opcode_table.json, in the table's order (R104).
A register operand is the register's own number (R110); which registers a form can name is `WellFormed`'s business. -/

namespace Sys2Proof

/-- The 88 instructions of R104. `d` and `r` are register numbers, a register pair being named by its low register;
immediates are the fields of R112 to R118, unextended. -/
inductive Instr where
  | nop                                    -- R311
  | movw (d r : Reg)                       -- R185
  | muls (d r : Reg)                       -- R192
  | mulsu (d r : Reg)                      -- R193
  | fmul (d r : Reg)                       -- R194
  | fmuls (d r : Reg)                      -- R195
  | fmulsu (d r : Reg)                     -- R196
  | cpc (d r : Reg)                        -- R174
  | sbc (d r : Reg)                        -- R175
  | add (d r : Reg)                        -- R176
  | cpse (d r : Reg)                       -- R177
  | cp (d r : Reg)                         -- R178
  | sub (d r : Reg)                        -- R179
  | adc (d r : Reg)                        -- R180
  | and (d r : Reg)                        -- R181
  | eor (d r : Reg)                        -- R182
  | or (d r : Reg)                         -- R183
  | mov (d r : Reg)                        -- R184
  | cpi (d : Reg) (k : BitVec 8)           -- R225
  | sbci (d : Reg) (k : BitVec 8)          -- R226
  | subi (d : Reg) (k : BitVec 8)          -- R227
  | ori (d : Reg) (k : BitVec 8)           -- R228
  | andi (d : Reg) (k : BitVec 8)          -- R229
  | lddZ (d : Reg) (q : BitVec 6)          -- R241
  | lddY (d : Reg) (q : BitVec 6)          -- R242
  | stdZ (q : BitVec 6) (r : Reg)          -- R243
  | stdY (q : BitVec 6) (r : Reg)          -- R244
  | lds (d : Reg) (k : BitVec 16)          -- R221
  | ldZInc (d : Reg)                       -- R245
  | ldZDec (d : Reg)                       -- R246
  | lpmZ (d : Reg)                         -- R272
  | lpmZInc (d : Reg)                      -- R273
  | ldYInc (d : Reg)                       -- R247
  | ldYDec (d : Reg)                       -- R248
  | ldX (d : Reg)                          -- R249
  | ldXInc (d : Reg)                       -- R250
  | ldXDec (d : Reg)                       -- R251
  | pop (d : Reg)                          -- R264
  | sts (k : BitVec 16) (r : Reg)          -- R222
  | stZInc (r : Reg)                       -- R252
  | stZDec (r : Reg)                       -- R253
  | stYInc (r : Reg)                       -- R254
  | stYDec (r : Reg)                       -- R255
  | stX (r : Reg)                          -- R256
  | stXInc (r : Reg)                       -- R257
  | stXDec (r : Reg)                       -- R258
  | push (r : Reg)                         -- R263
  | com (d : Reg)                          -- R151
  | neg (d : Reg)                          -- R152
  | swap (d : Reg)                         -- R153
  | inc (d : Reg)                          -- R154
  | asr (d : Reg)                          -- R155
  | lsr (d : Reg)                          -- R156
  | ror (d : Reg)                          -- R157
  | dec (d : Reg)                          -- R158
  | bset (s : BitVec 3)                    -- R207
  | bclr (s : BitVec 3)                    -- R208
  | ijmp                                   -- R285
  | eijmp                                  -- R286
  | ret                                    -- R287
  | icall                                  -- R288
  | reti                                   -- R290
  | eicall                                 -- R289
  | sleep                                  -- R312
  | brk                                    -- R313 (`break` is a Lean keyword)
  | wdr                                    -- R314
  | lpm                                    -- R271
  | des (k : BitVec 4)                     -- R233
  | jmp (k : BitVec 22)                    -- R282
  | call (k : BitVec 22)                   -- R283
  | adiw (d : Reg) (k : BitVec 6)          -- R231
  | sbiw (d : Reg) (k : BitVec 6)          -- R232
  | cbi (a : BitVec 5) (b : BitVec 3)      -- R203
  | sbic (a : BitVec 5) (b : BitVec 3)     -- R204
  | sbi (a : BitVec 5) (b : BitVec 3)      -- R205
  | sbis (a : BitVec 5) (b : BitVec 3)     -- R206
  | mul (d r : Reg)                        -- R191
  | inp (d : Reg) (a : BitVec 6)           -- R201 (`in` is a Lean keyword)
  | out (a : BitVec 6) (r : Reg)           -- R202
  | rjmp (k : BitVec 12)                   -- R291
  | rcall (k : BitVec 12)                  -- R292
  | ldi (d : Reg) (k : BitVec 8)           -- R224
  | brbs (s : BitVec 3) (k : BitVec 7)     -- R293
  | brbc (s : BitVec 3) (k : BitVec 7)     -- R294
  | bld (d : Reg) (b : BitVec 3)           -- R159
  | bst (r : Reg) (b : BitVec 3)           -- R160
  | sbrc (r : Reg) (b : BitVec 3)          -- R161
  | sbrs (r : Reg) (b : BitVec 3)          -- R162
  deriving DecidableEq, Repr

end Sys2Proof
end

