-- ==== Sys2Proof/WellFormed.lean ====
section
/-! DEFINITION. Which instructions have an encoding: the operand ranges of R141 that the operand types do not
already enforce, each named by the register field of R110 it comes from. -/

namespace Sys2Proof

/-- `r16`..`r31`: the 4-bit fields of the immediate format and of `muls` (R22, R110). -/
def Reg.isUpper (r : Reg) : Bool := 16 ≤ r.toNat

/-- `r16`..`r23`: the 3-bit fields of `mulsu fmul fmuls fmulsu` (R22, R110). -/
def Reg.isMulSmall (r : Reg) : Bool := 16 ≤ r.toNat && r.toNat < 24

/-- An even register, the low one of a `movw` pair (R22, R110). -/
def Reg.isEven (r : Reg) : Bool := r.toNat % 2 == 0

/-- `r24`, `r26`, `r28` or `r30`: the 2-bit field of `adiw` and `sbiw` (R22, R110). -/
def Reg.isWordPair (r : Reg) : Bool := r.toNat % 2 == 0 && 24 ≤ r.toNat

/-- The instruction can be written in its format (R141). `jmp`/`call` with `k` above 0x3FFF are well formed: they
have an encoding and fault when executed (R136, R281). -/
def Instr.wf : Instr → Bool
  | .movw d r => Reg.isEven d && Reg.isEven r
  | .muls d r => Reg.isUpper d && Reg.isUpper r
  | .mulsu d r => Reg.isMulSmall d && Reg.isMulSmall r
  | .fmul d r => Reg.isMulSmall d && Reg.isMulSmall r
  | .fmuls d r => Reg.isMulSmall d && Reg.isMulSmall r
  | .fmulsu d r => Reg.isMulSmall d && Reg.isMulSmall r
  | .cpi d _ => Reg.isUpper d
  | .sbci d _ => Reg.isUpper d
  | .subi d _ => Reg.isUpper d
  | .ori d _ => Reg.isUpper d
  | .andi d _ => Reg.isUpper d
  | .ldi d _ => Reg.isUpper d
  | .adiw d _ => Reg.isWordPair d
  | .sbiw d _ => Reg.isWordPair d
  | .nop | .cpc _ _ | .sbc _ _ | .add _ _ | .cpse _ _ | .cp _ _ | .sub _ _ | .adc _ _
  | .and _ _ | .eor _ _ | .or _ _ | .mov _ _
  | .lddZ _ _ | .lddY _ _ | .stdZ _ _ | .stdY _ _ | .lds _ _
  | .ldZInc _ | .ldZDec _ | .lpmZ _ | .lpmZInc _ | .ldYInc _ | .ldYDec _
  | .ldX _ | .ldXInc _ | .ldXDec _ | .pop _ | .sts _ _
  | .stZInc _ | .stZDec _ | .stYInc _ | .stYDec _ | .stX _ | .stXInc _ | .stXDec _ | .push _
  | .com _ | .neg _ | .swap _ | .inc _ | .asr _ | .lsr _ | .ror _ | .dec _
  | .bset _ | .bclr _ | .ijmp | .eijmp | .ret | .icall | .reti | .eicall
  | .sleep | .brk | .wdr | .lpm | .des _ | .jmp _ | .call _
  | .cbi _ _ | .sbic _ _ | .sbi _ _ | .sbis _ _ | .mul _ _ | .inp _ _ | .out _ _
  | .rjmp _ | .rcall _ | .brbs _ _ | .brbc _ _ | .bld _ _ | .bst _ _ | .sbrc _ _ | .sbrs _ _ => true

end Sys2Proof
end

