-- ==== Sys2Proof/Decode.lean ====
section
/-! DEFINITION. The decoder, from the opcode map of spec R104 to R136 and spec/opcode_table.json, and the encoder, from
the same formats. The decoder is total: a first word that no row matches is rejected as reserved (R130). -/

namespace Sys2Proof

/-- Why bytes are no instruction. -/
inductive DecodeError where
  /-- The first word is one of the 1749 reserved words of R130. -/
  | reserved (w : Word)
  /-- The bytes end inside the instruction. -/
  | truncated
  deriving DecidableEq, Repr

/-! ## Lengths (R100 to R102) -/

/-- The word is the first word of `lds` or `sts` (R101). -/
def isLdsSts (w : Word) : Bool := w &&& 0xFC0F#16 == 0x9000#16

/-- The word is the first word of `jmp` or `call` (R101). -/
def isJmpCall (w : Word) : Bool := w &&& 0xFE0C#16 == 0x940C#16

/-- `ilen(w)` of R102: the length in words of the instruction whose first word is `w`, reserved words counting one. -/
def ilen (w : Word) : Nat := if isLdsSts w || isJmpCall w then 2 else 1

/-! ## Fields (R110 to R118) -/

/-- `ddddd`, and the `rrrrr` of the store forms: bits 8..4 (R110). -/
def fieldD (w : Word) : Reg := w.extractLsb' 4 5

/-- The split `r` field of format RR: bit 9, then bits 3..0 (R108). -/
def fieldR (w : Word) : Reg := w.extractLsb' 9 1 ++ w.extractLsb' 0 4

/-- The 4-bit `dddd` of bits 7..4 that names 16 + field (R110). -/
def fieldUpperD (w : Word) : Reg := 1#1 ++ w.extractLsb' 4 4

/-- The 4-bit `rrrr` of bits 3..0 that names 16 + field (R109, R110). -/
def fieldUpperR (w : Word) : Reg := 1#1 ++ w.extractLsb' 0 4

/-- The 3-bit `ddd` of bits 6..4 that names 16 + field (R111). -/
def fieldSmallD (w : Word) : Reg := 0b10#2 ++ w.extractLsb' 4 3

/-- The 3-bit `rrr` of bits 2..0 that names 16 + field (R111). -/
def fieldSmallR (w : Word) : Reg := 0b10#2 ++ w.extractLsb' 0 3

/-- The 4-bit `dddd` of `movw`, low register 2 * field (R109). -/
def fieldPairD (w : Word) : Reg := w.extractLsb' 4 4 ++ 0#1

/-- The 4-bit `rrrr` of `movw`, low register 2 * field (R109). -/
def fieldPairR (w : Word) : Reg := w.extractLsb' 0 4 ++ 0#1

/-- The 2-bit `dd` of `adiw`/`sbiw`, low register 24 + 2 * field (R110). -/
def fieldWordD (w : Word) : Reg := 0b11#2 ++ w.extractLsb' 4 2 ++ 0#1

/-- The 8-bit `K` of format I8: bits 11..8, then bits 3..0 (R112). -/
def fieldK8 (w : Word) : BitVec 8 := w.extractLsb' 8 4 ++ w.extractLsb' 0 4

/-- The 6-bit `K` of format I6: bits 7..6, then bits 3..0 (R112). -/
def fieldK6 (w : Word) : BitVec 6 := w.extractLsb' 6 2 ++ w.extractLsb' 0 4

/-- The 4-bit `K` of `des`: bits 7..4 (R112). -/
def fieldK4 (w : Word) : BitVec 4 := w.extractLsb' 4 4

/-- The 22-bit `k` of `jmp`/`call`: bits 8..4 and bit 0 of the first word, then the second word (R113). -/
def fieldK22 (w w2 : Word) : BitVec 22 := w.extractLsb' 4 5 ++ w.extractLsb' 0 1 ++ w2

/-- The 12-bit `k` of `rjmp`/`rcall`: bits 11..0 (R115). -/
def fieldK12 (w : Word) : BitVec 12 := w.extractLsb' 0 12

/-- The 7-bit `k` of `brbs`/`brbc`: bits 9..3 (R115). -/
def fieldK7 (w : Word) : BitVec 7 := w.extractLsb' 3 7

/-- The 6-bit I/O address of `in`/`out`: bits 10..9, then bits 3..0 (R116). -/
def fieldA6 (w : Word) : BitVec 6 := w.extractLsb' 9 2 ++ w.extractLsb' 0 4

/-- The 5-bit I/O address of `cbi sbic sbi sbis`: bits 7..3 (R116). -/
def fieldA5 (w : Word) : BitVec 5 := w.extractLsb' 3 5

/-- The displacement `q`: bit 13, then bits 11..10, then bits 2..0 (R117). -/
def fieldQ (w : Word) : BitVec 6 := w.extractLsb' 13 1 ++ w.extractLsb' 10 2 ++ w.extractLsb' 0 3

/-- The bit number `b`, and the `s` of `brbs`/`brbc`: bits 2..0 (R118). -/
def fieldB (w : Word) : BitVec 3 := w.extractLsb' 0 3

/-- The `s` of `bset`/`bclr`: bits 6..4 (R118). -/
def fieldS (w : Word) : BitVec 3 := w.extractLsb' 4 3

/-! ## The opcode table (R105, R136) -/

/-- One row of spec/opcode_table.json: its mnemonic, the bits its pattern fixes, and the instruction the fields of a
first and a second word name. -/
structure OpRow where
  mnemonic : String
  mask : Word
  value : Word
  build : Word → Word → Instr

/-- The first word agrees with every fixed bit of the row's pattern. -/
def OpRow.accepts (row : OpRow) (w : Word) : Bool := w &&& row.mask == row.value

/-- Formats Z0, R4, R3 and RR (R108, R109, R111, R129, R134): first words 0x0000 to 0x2FFF. -/
def rowsTwoRegister : List OpRow :=
  [ ⟨"nop", 0xFFFF#16, 0x0000#16, fun _ _ => .nop⟩,
    ⟨"movw_Rd_Rr", 0xFF00#16, 0x0100#16, fun w _ => .movw (fieldPairD w) (fieldPairR w)⟩,
    ⟨"muls_Rd_Rr", 0xFF00#16, 0x0200#16, fun w _ => .muls (fieldUpperD w) (fieldUpperR w)⟩,
    ⟨"mulsu_Rd_Rr", 0xFF88#16, 0x0300#16, fun w _ => .mulsu (fieldSmallD w) (fieldSmallR w)⟩,
    ⟨"fmul_Rd_Rr", 0xFF88#16, 0x0308#16, fun w _ => .fmul (fieldSmallD w) (fieldSmallR w)⟩,
    ⟨"fmuls_Rd_Rr", 0xFF88#16, 0x0380#16, fun w _ => .fmuls (fieldSmallD w) (fieldSmallR w)⟩,
    ⟨"fmulsu_Rd_Rr", 0xFF88#16, 0x0388#16, fun w _ => .fmulsu (fieldSmallD w) (fieldSmallR w)⟩,
    ⟨"cpc_Rd_Rr", 0xFC00#16, 0x0400#16, fun w _ => .cpc (fieldD w) (fieldR w)⟩,
    ⟨"sbc_Rd_Rr", 0xFC00#16, 0x0800#16, fun w _ => .sbc (fieldD w) (fieldR w)⟩,
    ⟨"add_Rd_Rr", 0xFC00#16, 0x0C00#16, fun w _ => .add (fieldD w) (fieldR w)⟩,
    ⟨"cpse_Rd_Rr", 0xFC00#16, 0x1000#16, fun w _ => .cpse (fieldD w) (fieldR w)⟩,
    ⟨"cp_Rd_Rr", 0xFC00#16, 0x1400#16, fun w _ => .cp (fieldD w) (fieldR w)⟩,
    ⟨"sub_Rd_Rr", 0xFC00#16, 0x1800#16, fun w _ => .sub (fieldD w) (fieldR w)⟩,
    ⟨"adc_Rd_Rr", 0xFC00#16, 0x1C00#16, fun w _ => .adc (fieldD w) (fieldR w)⟩,
    ⟨"and_Rd_Rr", 0xFC00#16, 0x2000#16, fun w _ => .and (fieldD w) (fieldR w)⟩,
    ⟨"eor_Rd_Rr", 0xFC00#16, 0x2400#16, fun w _ => .eor (fieldD w) (fieldR w)⟩,
    ⟨"or_Rd_Rr", 0xFC00#16, 0x2800#16, fun w _ => .or (fieldD w) (fieldR w)⟩,
    ⟨"mov_Rd_Rr", 0xFC00#16, 0x2C00#16, fun w _ => .mov (fieldD w) (fieldR w)⟩ ]

/-- Formats I8 and DQ (R124, R127): first words 0x3000 to 0x8FFF and 0xA000 to 0xAFFF. -/
def rowsImmediate : List OpRow :=
  [ ⟨"cpi_Rd_K", 0xF000#16, 0x3000#16, fun w _ => .cpi (fieldUpperD w) (fieldK8 w)⟩,
    ⟨"sbci_Rd_K", 0xF000#16, 0x4000#16, fun w _ => .sbci (fieldUpperD w) (fieldK8 w)⟩,
    ⟨"subi_Rd_K", 0xF000#16, 0x5000#16, fun w _ => .subi (fieldUpperD w) (fieldK8 w)⟩,
    ⟨"ori_Rd_K", 0xF000#16, 0x6000#16, fun w _ => .ori (fieldUpperD w) (fieldK8 w)⟩,
    ⟨"andi_Rd_K", 0xF000#16, 0x7000#16, fun w _ => .andi (fieldUpperD w) (fieldK8 w)⟩,
    ⟨"ldd_Rd_Z+q", 0xD208#16, 0x8000#16, fun w _ => .lddZ (fieldD w) (fieldQ w)⟩,
    ⟨"ldd_Rd_Y+q", 0xD208#16, 0x8008#16, fun w _ => .lddY (fieldD w) (fieldQ w)⟩,
    ⟨"std_Z+q_Rr", 0xD208#16, 0x8200#16, fun w _ => .stdZ (fieldQ w) (fieldD w)⟩,
    ⟨"std_Y+q_Rr", 0xD208#16, 0x8208#16, fun w _ => .stdY (fieldQ w) (fieldD w)⟩ ]

/-- Formats DS and LS (R123, R128): first words 0x9000 to 0x93FF. -/
def rowsLoadStore : List OpRow :=
  [ ⟨"lds_Rd_k", 0xFE0F#16, 0x9000#16, fun w w2 => .lds (fieldD w) w2⟩,
    ⟨"ld_Rd_Z+", 0xFE0F#16, 0x9001#16, fun w _ => .ldZInc (fieldD w)⟩,
    ⟨"ld_Rd_-Z", 0xFE0F#16, 0x9002#16, fun w _ => .ldZDec (fieldD w)⟩,
    ⟨"lpm_Rd_Z", 0xFE0F#16, 0x9004#16, fun w _ => .lpmZ (fieldD w)⟩,
    ⟨"lpm_Rd_Z+", 0xFE0F#16, 0x9005#16, fun w _ => .lpmZInc (fieldD w)⟩,
    ⟨"ld_Rd_Y+", 0xFE0F#16, 0x9009#16, fun w _ => .ldYInc (fieldD w)⟩,
    ⟨"ld_Rd_-Y", 0xFE0F#16, 0x900A#16, fun w _ => .ldYDec (fieldD w)⟩,
    ⟨"ld_Rd_X", 0xFE0F#16, 0x900C#16, fun w _ => .ldX (fieldD w)⟩,
    ⟨"ld_Rd_X+", 0xFE0F#16, 0x900D#16, fun w _ => .ldXInc (fieldD w)⟩,
    ⟨"ld_Rd_-X", 0xFE0F#16, 0x900E#16, fun w _ => .ldXDec (fieldD w)⟩,
    ⟨"pop_Rd", 0xFE0F#16, 0x900F#16, fun w _ => .pop (fieldD w)⟩,
    ⟨"sts_k_Rr", 0xFE0F#16, 0x9200#16, fun w w2 => .sts w2 (fieldD w)⟩,
    ⟨"st_Z+_Rr", 0xFE0F#16, 0x9201#16, fun w _ => .stZInc (fieldD w)⟩,
    ⟨"st_-Z_Rr", 0xFE0F#16, 0x9202#16, fun w _ => .stZDec (fieldD w)⟩,
    ⟨"st_Y+_Rr", 0xFE0F#16, 0x9209#16, fun w _ => .stYInc (fieldD w)⟩,
    ⟨"st_-Y_Rr", 0xFE0F#16, 0x920A#16, fun w _ => .stYDec (fieldD w)⟩,
    ⟨"st_X_Rr", 0xFE0F#16, 0x920C#16, fun w _ => .stX (fieldD w)⟩,
    ⟨"st_X+_Rr", 0xFE0F#16, 0x920D#16, fun w _ => .stXInc (fieldD w)⟩,
    ⟨"st_-X_Rr", 0xFE0F#16, 0x920E#16, fun w _ => .stXDec (fieldD w)⟩,
    ⟨"push_Rr", 0xFE0F#16, 0x920F#16, fun w _ => .push (fieldD w)⟩ ]

/-- Formats SR, SF, Z0, I4 and JA (R106, R122, R126, R129, R131): first words 0x9400 to 0x95FF. -/
def rowsSingleRegister : List OpRow :=
  [ ⟨"com_Rd", 0xFE0F#16, 0x9400#16, fun w _ => .com (fieldD w)⟩,
    ⟨"neg_Rd", 0xFE0F#16, 0x9401#16, fun w _ => .neg (fieldD w)⟩,
    ⟨"swap_Rd", 0xFE0F#16, 0x9402#16, fun w _ => .swap (fieldD w)⟩,
    ⟨"inc_Rd", 0xFE0F#16, 0x9403#16, fun w _ => .inc (fieldD w)⟩,
    ⟨"asr_Rd", 0xFE0F#16, 0x9405#16, fun w _ => .asr (fieldD w)⟩,
    ⟨"lsr_Rd", 0xFE0F#16, 0x9406#16, fun w _ => .lsr (fieldD w)⟩,
    ⟨"ror_Rd", 0xFE0F#16, 0x9407#16, fun w _ => .ror (fieldD w)⟩,
    ⟨"dec_Rd", 0xFE0F#16, 0x940A#16, fun w _ => .dec (fieldD w)⟩,
    ⟨"bset_s", 0xFF8F#16, 0x9408#16, fun w _ => .bset (fieldS w)⟩,
    ⟨"bclr_s", 0xFF8F#16, 0x9488#16, fun w _ => .bclr (fieldS w)⟩,
    ⟨"ijmp", 0xFFFF#16, 0x9409#16, fun _ _ => .ijmp⟩,
    ⟨"eijmp", 0xFFFF#16, 0x9419#16, fun _ _ => .eijmp⟩,
    ⟨"ret", 0xFFFF#16, 0x9508#16, fun _ _ => .ret⟩,
    ⟨"icall", 0xFFFF#16, 0x9509#16, fun _ _ => .icall⟩,
    ⟨"reti", 0xFFFF#16, 0x9518#16, fun _ _ => .reti⟩,
    ⟨"eicall", 0xFFFF#16, 0x9519#16, fun _ _ => .eicall⟩,
    ⟨"sleep", 0xFFFF#16, 0x9588#16, fun _ _ => .sleep⟩,
    ⟨"break", 0xFFFF#16, 0x9598#16, fun _ _ => .brk⟩,
    ⟨"wdr", 0xFFFF#16, 0x95A8#16, fun _ _ => .wdr⟩,
    ⟨"lpm", 0xFFFF#16, 0x95C8#16, fun _ _ => .lpm⟩,
    ⟨"des_K", 0xFF0F#16, 0x940B#16, fun w _ => .des (fieldK4 w)⟩,
    ⟨"jmp_k", 0xFE0E#16, 0x940C#16, fun w w2 => .jmp (fieldK22 w w2)⟩,
    ⟨"call_k", 0xFE0E#16, 0x940E#16, fun w w2 => .call (fieldK22 w w2)⟩ ]

/-- Formats I6, IOB, RR (`mul`), IO, JR, I8 (`ldi`), BR and RB (R107, R108, R120, R121, R124, R125, R132, R133). -/
def rowsIoAndBranch : List OpRow :=
  [ ⟨"adiw_Rd_K", 0xFF00#16, 0x9600#16, fun w _ => .adiw (fieldWordD w) (fieldK6 w)⟩,
    ⟨"sbiw_Rd_K", 0xFF00#16, 0x9700#16, fun w _ => .sbiw (fieldWordD w) (fieldK6 w)⟩,
    ⟨"cbi_A_b", 0xFF00#16, 0x9800#16, fun w _ => .cbi (fieldA5 w) (fieldB w)⟩,
    ⟨"sbic_A_b", 0xFF00#16, 0x9900#16, fun w _ => .sbic (fieldA5 w) (fieldB w)⟩,
    ⟨"sbi_A_b", 0xFF00#16, 0x9A00#16, fun w _ => .sbi (fieldA5 w) (fieldB w)⟩,
    ⟨"sbis_A_b", 0xFF00#16, 0x9B00#16, fun w _ => .sbis (fieldA5 w) (fieldB w)⟩,
    ⟨"mul_Rd_Rr", 0xFC00#16, 0x9C00#16, fun w _ => .mul (fieldD w) (fieldR w)⟩,
    ⟨"in_Rd_A", 0xF800#16, 0xB000#16, fun w _ => .inp (fieldD w) (fieldA6 w)⟩,
    ⟨"out_A_Rr", 0xF800#16, 0xB800#16, fun w _ => .out (fieldA6 w) (fieldD w)⟩,
    ⟨"rjmp_k", 0xF000#16, 0xC000#16, fun w _ => .rjmp (fieldK12 w)⟩,
    ⟨"rcall_k", 0xF000#16, 0xD000#16, fun w _ => .rcall (fieldK12 w)⟩,
    ⟨"ldi_Rd_K", 0xF000#16, 0xE000#16, fun w _ => .ldi (fieldUpperD w) (fieldK8 w)⟩,
    ⟨"brbs_s_k", 0xFC00#16, 0xF000#16, fun w _ => .brbs (fieldB w) (fieldK7 w)⟩,
    ⟨"brbc_s_k", 0xFC00#16, 0xF400#16, fun w _ => .brbc (fieldB w) (fieldK7 w)⟩,
    ⟨"bld_Rd_b", 0xFE08#16, 0xF800#16, fun w _ => .bld (fieldD w) (fieldB w)⟩,
    ⟨"bst_Rr_b", 0xFE08#16, 0xFA00#16, fun w _ => .bst (fieldD w) (fieldB w)⟩,
    ⟨"sbrc_Rr_b", 0xFE08#16, 0xFC00#16, fun w _ => .sbrc (fieldD w) (fieldB w)⟩,
    ⟨"sbrs_Rr_b", 0xFE08#16, 0xFE00#16, fun w _ => .sbrs (fieldD w) (fieldB w)⟩ ]

/-- The 88 rows of spec/opcode_table.json, in its order. No first word matches two of them (R136), so the order does
not matter. -/
def opcodeTable : List OpRow :=
  rowsTwoRegister ++ rowsImmediate ++ rowsLoadStore ++ rowsSingleRegister ++ rowsIoAndBranch

/-- The row whose pattern the first word matches, if one does (R136). -/
def findRow (w : Word) : Option OpRow := opcodeTable.find? (·.accepts w)

/-! ## Decoding -/

/-- Decode a first word and a second word; the second is read by two-word instructions only (R136). -/
def decodeWords (w w2 : Word) : Except DecodeError Instr :=
  match findRow w with
  | some row => .ok (row.build w w2)
  | none => .error (.reserved w)

/-- The program word of two bytes of the program image, the byte at the lower address first (R60: little-endian). -/
def wordOfBytes (b0 b1 : Byte) : Word := pairOf b1 b0

/-- Decode the instruction at the head of a byte-wise program image, with the bytes that follow it (R62, R101). -/
def decodeBytes : List Byte → Except DecodeError (Instr × List Byte)
  | b0 :: b1 :: rest =>
    let w := wordOfBytes b0 b1
    if ilen w = 2 then
      match rest with
      | c0 :: c1 :: rest' => (decodeWords w (wordOfBytes c0 c1)).map (·, rest')
      | _ => .error .truncated
    else (decodeWords w 0#16).map (·, rest)
  | _ => .error .truncated

/-- The four bytes, low word first and each word's low byte first (R60), of a number whose bits above `nbits` are
taken as 0. -/
def tableBytes (nbits w : Nat) : List Byte :=
  let v := BitVec.ofNat 32 (w % 2 ^ nbits)
  [v.extractLsb' 0 8, v.extractLsb' 8 8, v.extractLsb' 16 8, v.extractLsb' 24 8]

/-- The instruction the decoder reads from a word of spec/opcode_table.json, bit 0 being the least significant bit of
the first word. -/
def decodeTableWord (nbits w : Nat) : Option Instr :=
  match decodeBytes (tableBytes nbits w) with
  | .ok (i, _) => some i
  | .error _ => none

/-! ## Encoding -/

/-- Format RR: six opcode bits, `r[4]`, `d`, `r[3:0]` (R108). -/
def encodeRR (op : BitVec 6) (d r : Reg) : Word := op ++ r.extractLsb' 4 1 ++ d ++ r.extractLsb' 0 4

/-- Format R4 of `muls`: the low four bits of two registers of the upper half (R109). -/
def encodeR4Upper (op : BitVec 8) (d r : Reg) : Word := op ++ d.extractLsb' 0 4 ++ r.extractLsb' 0 4

/-- Format R4 of `movw`: half the numbers of two even registers (R109). -/
def encodeR4Pair (op : BitVec 8) (d r : Reg) : Word := op ++ d.extractLsb' 1 4 ++ r.extractLsb' 1 4

/-- Format R3: the selector bits `n1` (bit 7) and `n0` (bit 3) and the low three bits of two registers (R111). -/
def encodeR3 (n1 n0 : BitVec 1) (d r : Reg) : Word :=
  0b00000011#8 ++ n1 ++ d.extractLsb' 0 3 ++ n0 ++ r.extractLsb' 0 3

/-- Format I8: the opcode, `K[7:4]`, the low four bits of the register, `K[3:0]` (R124). -/
def encodeI8 (op : BitVec 4) (d : Reg) (k : BitVec 8) : Word :=
  op ++ k.extractLsb' 4 4 ++ d.extractLsb' 0 4 ++ k.extractLsb' 0 4

/-- Format I6: the opcode, `K[5:4]`, `dd`, `K[3:0]` (R125). -/
def encodeI6 (op : BitVec 8) (d : Reg) (k : BitVec 6) : Word :=
  op ++ k.extractLsb' 4 2 ++ d.extractLsb' 1 2 ++ k.extractLsb' 0 4

/-- Formats SR, DS and LS: seven opcode bits, the register, four selector bits (R106, R123, R128). -/
def encodeSR (op : BitVec 7) (d : Reg) (n : BitVec 4) : Word := op ++ d ++ n

/-- Format DQ: `10 q5 0 q4q3`, the store bit, the register, the Y bit, `q2q1q0` (R127). -/
def encodeDQ (store y : BitVec 1) (d : Reg) (q : BitVec 6) : Word :=
  0b10#2 ++ q.extractLsb' 5 1 ++ 0#1 ++ q.extractLsb' 3 2 ++ store ++ d ++ y ++ q.extractLsb' 0 3

/-- Format IO: `1011`, the `out` bit, `A[5:4]`, the register, `A[3:0]` (R120). -/
def encodeIO (isOut : BitVec 1) (d : Reg) (a : BitVec 6) : Word :=
  0b1011#4 ++ isOut ++ a.extractLsb' 4 2 ++ d ++ a.extractLsb' 0 4

/-- Format IOB: `100110`, the two selector bits, `A`, `b` (R121). -/
def encodeIOB (n : BitVec 2) (a : BitVec 5) (b : BitVec 3) : Word := 0b100110#6 ++ n ++ a ++ b

/-- Format SF: `10010100`, the clear bit, `s`, `1000` (R122). -/
def encodeSF (isClear : BitVec 1) (s : BitVec 3) : Word := 0b10010100#8 ++ isClear ++ s ++ 0b1000#4

/-- Format JA, first word: `1001010`, `k[21:17]`, `11`, the call bit, `k[16]` (R131). -/
def encodeJA (isCall : BitVec 1) (k : BitVec 22) : Word :=
  0b1001010#7 ++ k.extractLsb' 17 5 ++ 0b11#2 ++ isCall ++ k.extractLsb' 16 1

/-- Format JR: `110`, the call bit, `k` (R132). -/
def encodeJR (isCall : BitVec 1) (k : BitVec 12) : Word := 0b110#3 ++ isCall ++ k

/-- Format BR: `11110`, the clear bit, `k`, `s` (R133). -/
def encodeBR (isClear : BitVec 1) (s : BitVec 3) (k : BitVec 7) : Word := 0b11110#5 ++ isClear ++ k ++ s

/-- Format RB: `11111`, the two selector bits, the register, `0`, `b` (R107). -/
def encodeRB (n : BitVec 2) (d : Reg) (b : BitVec 3) : Word := 0b11111#5 ++ n ++ d ++ 0#1 ++ b

/-- The words of an instruction, first word first (R105 to R134); for a well-formed one, its encoding. -/
def encode : Instr → List Word
  | .nop => [0x0000#16]
  | .movw d r => [encodeR4Pair 0b00000001#8 d r]
  | .muls d r => [encodeR4Upper 0b00000010#8 d r]
  | .mulsu d r => [encodeR3 0#1 0#1 d r]
  | .fmul d r => [encodeR3 0#1 1#1 d r]
  | .fmuls d r => [encodeR3 1#1 0#1 d r]
  | .fmulsu d r => [encodeR3 1#1 1#1 d r]
  | .cpc d r => [encodeRR 0b000001#6 d r]
  | .sbc d r => [encodeRR 0b000010#6 d r]
  | .add d r => [encodeRR 0b000011#6 d r]
  | .cpse d r => [encodeRR 0b000100#6 d r]
  | .cp d r => [encodeRR 0b000101#6 d r]
  | .sub d r => [encodeRR 0b000110#6 d r]
  | .adc d r => [encodeRR 0b000111#6 d r]
  | .and d r => [encodeRR 0b001000#6 d r]
  | .eor d r => [encodeRR 0b001001#6 d r]
  | .or d r => [encodeRR 0b001010#6 d r]
  | .mov d r => [encodeRR 0b001011#6 d r]
  | .cpi d k => [encodeI8 0b0011#4 d k]
  | .sbci d k => [encodeI8 0b0100#4 d k]
  | .subi d k => [encodeI8 0b0101#4 d k]
  | .ori d k => [encodeI8 0b0110#4 d k]
  | .andi d k => [encodeI8 0b0111#4 d k]
  | .lddZ d q => [encodeDQ 0#1 0#1 d q]
  | .lddY d q => [encodeDQ 0#1 1#1 d q]
  | .stdZ q r => [encodeDQ 1#1 0#1 r q]
  | .stdY q r => [encodeDQ 1#1 1#1 r q]
  | .lds d k => [encodeSR 0b1001000#7 d 0b0000#4, k]
  | .ldZInc d => [encodeSR 0b1001000#7 d 0b0001#4]
  | .ldZDec d => [encodeSR 0b1001000#7 d 0b0010#4]
  | .lpmZ d => [encodeSR 0b1001000#7 d 0b0100#4]
  | .lpmZInc d => [encodeSR 0b1001000#7 d 0b0101#4]
  | .ldYInc d => [encodeSR 0b1001000#7 d 0b1001#4]
  | .ldYDec d => [encodeSR 0b1001000#7 d 0b1010#4]
  | .ldX d => [encodeSR 0b1001000#7 d 0b1100#4]
  | .ldXInc d => [encodeSR 0b1001000#7 d 0b1101#4]
  | .ldXDec d => [encodeSR 0b1001000#7 d 0b1110#4]
  | .pop d => [encodeSR 0b1001000#7 d 0b1111#4]
  | .sts k r => [encodeSR 0b1001001#7 r 0b0000#4, k]
  | .stZInc r => [encodeSR 0b1001001#7 r 0b0001#4]
  | .stZDec r => [encodeSR 0b1001001#7 r 0b0010#4]
  | .stYInc r => [encodeSR 0b1001001#7 r 0b1001#4]
  | .stYDec r => [encodeSR 0b1001001#7 r 0b1010#4]
  | .stX r => [encodeSR 0b1001001#7 r 0b1100#4]
  | .stXInc r => [encodeSR 0b1001001#7 r 0b1101#4]
  | .stXDec r => [encodeSR 0b1001001#7 r 0b1110#4]
  | .push r => [encodeSR 0b1001001#7 r 0b1111#4]
  | .com d => [encodeSR 0b1001010#7 d 0b0000#4]
  | .neg d => [encodeSR 0b1001010#7 d 0b0001#4]
  | .swap d => [encodeSR 0b1001010#7 d 0b0010#4]
  | .inc d => [encodeSR 0b1001010#7 d 0b0011#4]
  | .asr d => [encodeSR 0b1001010#7 d 0b0101#4]
  | .lsr d => [encodeSR 0b1001010#7 d 0b0110#4]
  | .ror d => [encodeSR 0b1001010#7 d 0b0111#4]
  | .dec d => [encodeSR 0b1001010#7 d 0b1010#4]
  | .bset s => [encodeSF 0#1 s]
  | .bclr s => [encodeSF 1#1 s]
  | .ijmp => [0x9409#16]
  | .eijmp => [0x9419#16]
  | .ret => [0x9508#16]
  | .icall => [0x9509#16]
  | .reti => [0x9518#16]
  | .eicall => [0x9519#16]
  | .sleep => [0x9588#16]
  | .brk => [0x9598#16]
  | .wdr => [0x95A8#16]
  | .lpm => [0x95C8#16]
  | .des k => [0b10010100#8 ++ k ++ 0b1011#4]
  | .jmp k => [encodeJA 0#1 k, k.extractLsb' 0 16]
  | .call k => [encodeJA 1#1 k, k.extractLsb' 0 16]
  | .adiw d k => [encodeI6 0b10010110#8 d k]
  | .sbiw d k => [encodeI6 0b10010111#8 d k]
  | .cbi a b => [encodeIOB 0b00#2 a b]
  | .sbic a b => [encodeIOB 0b01#2 a b]
  | .sbi a b => [encodeIOB 0b10#2 a b]
  | .sbis a b => [encodeIOB 0b11#2 a b]
  | .mul d r => [encodeRR 0b100111#6 d r]
  | .inp d a => [encodeIO 0#1 d a]
  | .out a r => [encodeIO 1#1 r a]
  | .rjmp k => [encodeJR 0#1 k]
  | .rcall k => [encodeJR 1#1 k]
  | .ldi d k => [encodeI8 0b1110#4 d k]
  | .brbs s k => [encodeBR 0#1 s k]
  | .brbc s k => [encodeBR 1#1 s k]
  | .bld d b => [encodeRB 0b00#2 d b]
  | .bst r b => [encodeRB 0b01#2 r b]
  | .sbrc r b => [encodeRB 0b10#2 r b]
  | .sbrs r b => [encodeRB 0b11#2 r b]

/-- The first word of an instruction. -/
def firstWord (i : Instr) : Word := (encode i).headD 0#16

/-- The second word of a two-word instruction, 0 of a one-word one. -/
def secondWord (i : Instr) : Word := (encode i).getD 1 0#16

/-- The bytes of an instruction as a byte-wise image of program memory holds them (R60, R62). -/
def encodeBytes (i : Instr) : List Byte := (encode i).flatMap fun w => [lowByte w, highByte w]

end Sys2Proof
end

