-- ==== Sys2Proof/Config.lean ====
section
/-! DEFINITION. What the implementation fixes (the parameters of spec R5 and R6) and the values the spec leaves free
(R24, R41, R45, R362). A free value is an opaque constant: nothing proved of the machine can rest on it. -/

namespace Sys2Proof

/-- The 25 interrupt vectors 2 to 26 of R329, by the name of their source (vector 1 is reset, no interrupt). -/
inductive IrqVector where
  | int0 | int1 | pcint0 | pcint1 | pcint2 | wdt
  | timer2Compa | timer2Compb | timer2Ovf
  | timer1Capt | timer1Compa | timer1Compb | timer1Ovf
  | timer0Compa | timer0Compb | timer0Ovf
  | spiStc | usartRx | usartUdre | usartTx | adc | eeReady | analogComp | twi | spmReady
  deriving DecidableEq, Repr

/-- What the outside parties of R373 observe of the CPU: the accesses and events that R41 gives to `IoDevice`, and
`IrqSource.ack` of R326. -/
inductive IoEvent where
  /-- `IoDevice.read(a)`: the read itself, which may have a side effect in the device (R41, R68). -/
  | read (a : DataAddr)
  /-- `IoDevice.write(a, v)` (R41). -/
  | write (a : DataAddr) (v : Byte)
  /-- `IoDevice.event(WatchdogReset)`, made by `wdr` (R314). -/
  | watchdogReset
  /-- `IrqSource.ack(v)`: the request for vector `v` was accepted (R326, R327). -/
  | irqAck (v : IrqVector)
  deriving DecidableEq, Repr

namespace Config

/-- `RESET_PC` (R6, R45): where execution starts. -/
def resetPc : ProgAddr := 0#14

/-- The reset value of SREG: all flags clear, interrupts disabled (R31, R45). -/
def resetSreg : Byte := 0x00#8

/-- `RAMEND`, the highest data address (R5). -/
def ramEnd : DataAddr := 0x08FF#16

/-- The reset value of SP, `RAMEND` (R33, R45). -/
def resetSp : Word := ramEnd

/-- The first SRAM address (R39). -/
def sramStart : DataAddr := 0x0100#16

/-- `SP_IO_ADDR`: SPL is I/O register 0x3D, data address 0x005D (R33). -/
def splAddr : DataAddr := 0x005D#16

/-- `SP_IO_ADDR`: SPH is I/O register 0x3E, data address 0x005E (R33). -/
def sphAddr : DataAddr := 0x005E#16

/-- SREG is I/O register 0x3F, data address 0x005F (R32). -/
def sregAddr : DataAddr := 0x005F#16

/-- `FLASH_WORDS` (R5): 16384 words, byte addresses 0 to 0x7FFF. -/
def flashWords : Nat := 16384

/-- FREE VALUE (R24, R45, R362; log entry 1). The arbitrary byte that general register `r` holds after reset. -/
opaque regAtReset : Reg → Byte

/-- FREE VALUE (R45, R362; log entry 2). The arbitrary byte that SRAM address `a` holds until something writes it. -/
opaque sramAtReset : Nat → Byte

/-- FREE VALUE (R41, R68; log entry 3). The byte `IoDevice` answers to a read of data address `a`, when the events
it has observed so far, the latest first, are `history`. The read is itself recorded, so a later read of the same
address is a new draw. -/
opaque deviceRead : List IoEvent → DataAddr → Byte

end Config

end Sys2Proof
end

