-- ==== Sys2Proof/Machine/State.lean ====
section
/-! DEFINITION. The state of the machine (spec R20 to R45), its faults (R321), its refusals, and the state after reset
(R45, R360). -/

namespace Sys2Proof.Machine

/-- Whether a faulting data access was a read or a write (recorded with the fault, R321). -/
inductive Access where
  | read
  | write
  deriving DecidableEq, Repr

/-- The model-level faults of R321, exhaustively, each with what R321 says is recorded with it. A fault ends the run:
the state has no successor and nothing of it changes (R322). -/
inductive Fault where
  /-- Raised by the fetch, when the first word at `pc` is one of the 1749 reserved words of R130. Safe: the chip may do
  something harmless there; nothing false is proved (D3). -/
  | illegalOpcode (pc : ProgAddr) (word : Word)
  /-- Raised by `des`, `eijmp` and `eicall`, always (R233, R286, R289). Safe (D4, D5). -/
  | notOnThisDevice (pc : ProgAddr) (word : Word)
  /-- Raised by `break`, always (R313). Safe (D13). -/
  | debugOnly (pc : ProgAddr)
  /-- Raised by `ld`/`st` with post-increment or pre-decrement whose data register belongs to the pointer, and by
  `lpm r30,Z+` and `lpm r31,Z+` (R262, R273). Safe (D19). -/
  | undefinedOperandCombination (pc : ProgAddr) (word : Word)
  /-- Raised by every data-space access above 0x08FF, of an instruction or of interrupt entry (R70). Safe (D6). -/
  | dataAddressOutOfRange (pc : ProgAddr) (address : DataAddr) (access : Access)
  /-- Raised by the `lpm` forms when `Z >> 1` is above 0x3FFF (R270). Safe (D31). -/
  | progAddressOutOfRange (pc : ProgAddr) (z : Word)
  /-- Raised by `jmp call ijmp icall ret reti` for an absolute target above 0x3FFF (R281). Safe (D21). -/
  | targetOutOfRange (pc : ProgAddr) (target : Nat)
  deriving DecidableEq, Repr

/-- Why a step has no meaning in this model. -/
inductive Refusal where
  /-- Raised by the dispatch for an instruction that has no meaning yet (none is left). Safe. -/
  | notModelled (mnemonic : String)
  /-- Raised by the fetch, by a skip and by `lpm` when they need a byte of program memory that the program image does
  not give: the model requires `Program` to give every word it reads (R45, D26, U19). Safe. -/
  | programUndefined (byteAddress : Nat)
  deriving DecidableEq, Repr

/-- A memory: the bytes that have been given a value, addresses strictly rising (`Memory.wf`). An address that is not
listed has no value (R362); what a read of it gives is said by the one operation that reads it. -/
abbrev Memory := List Host.Cell

/-- The whole architectural state (R20 to R45), the two bits of model state of R43, and the parties of R373 as far as
the CPU meets them. -/
structure State where
  /-- `r0`..`r31` (R20), which are also data addresses 0x0000 to 0x001F (R23). -/
  regs : Vector Byte 32
  /-- The program counter, a word address (R25). -/
  pc : ProgAddr
  /-- The status register, bits I T H S V N Z C from 7 down to 0 (R28). -/
  sreg : Byte
  /-- The stack pointer (R33); its bytes are SPL and SPH. -/
  sp : Word
  /-- SRAM, data addresses 0x0100 to 0x08FF: the bytes written so far (R38, R39, R362). -/
  sram : Memory
  /-- The `Program` parameter (R6, R45): the bytes of program memory the image gives, byte addresses 0 to 0x7FFF, the
  low byte of word `w` at `2w` (R38, R60). No instruction writes it (R78). -/
  program : Memory
  /-- No interrupt is accepted before the next instruction has executed (R43). -/
  irqInhibit : Bool
  /-- Set by `sleep`; no instruction is fetched while it is set (R43, R312). -/
  asleep : Bool
  /-- The `IrqSource` parameter (R326): its answers to the polls to come, the next first; after the last it answers
  `none` for ever, so the empty list is the default source. The model's own field (log entry 5). -/
  irqAnswers : List (Option IrqVector)
  /-- The event history of `IoDevice` and the acknowledgements to `IrqSource` (R41, R314, R326), the latest first. The
  draws of device reads are taken from it. The model's own field (log entry 3). -/
  events : List IoEvent
  deriving DecidableEq, Repr

/-- The state after reset (R45, R360): `pc`, SREG and SP as R45 states them, the two model bits clear, no SRAM byte
written, no program, the default `IrqSource`; each register holds its arbitrary byte (R24, R362; log entry 1). -/
def State.reset : State where
  regs := ⟨((List.range 32).map fun n => Config.regAtReset (BitVec.ofNat 5 n)).toArray, by simp⟩
  pc := Config.resetPc
  sreg := Config.resetSreg
  sp := Config.resetSp
  sram := []
  program := []
  irqInhibit := false
  asleep := false
  irqAnswers := []
  events := []

end Sys2Proof.Machine
end

