-- ==== Sys2Proof/Machine/Ops.lean ====
section
/-! DEFINITION. The named operations every meaning is built from: registers, memory and its dispatch by address (spec
R10 to R14, R70), program memory and fetch (R60 to R62, R136), skip (R103), the stack (R260), the return-address
accesses (R81), and interrupt entry and return (R290, R330). -/

namespace Sys2Proof.Machine

/-- What a step, or a part of one, can come to. -/
abbrev Result (α : Type) := Host.Outcome α Fault Refusal

/-- Do `f` with what `o` gives; a fault or a refusal of `o` ends the step and discards every change (R322). -/
def andThen {α β : Type} (o : Result α) (f : α → Result β) : Result β :=
  match o with
  | .next a => f a
  | .fault r => .fault r
  | .refused r => .refused r

/-! ## Memories -/

/-- What an unlisted address of a memory holds: no value (R362). -/
def Memory.unlisted : Option Byte := none

/-- The value the memory gives address `a`, if it lists it. -/
def Memory.byteAt : Memory → Nat → Option Byte
  | [], _ => Memory.unlisted
  | (k, v) :: m, a => if k = a then some v else Memory.byteAt m a

/-- The memory with value `v` at address `a`, addresses kept rising. -/
def Memory.withByte : Memory → Nat → Byte → Memory
  | [], a, v => [(a, v)]
  | (k, w) :: m, a, v =>
    if a < k then (a, v) :: (k, w) :: m
    else if a = k then (a, v) :: m
    else (k, w) :: Memory.withByte m a v

/-- Every address of the memory is above `lo`, and they rise strictly. -/
def Memory.risesFrom : Nat → Memory → Bool
  | _, [] => true
  | lo, (k, _) :: m => lo ≤ k && Memory.risesFrom (k + 1) m

/-- The canonical form: addresses strictly rising. No entry says what an unlisted address reads as, since that is no
value at all (`Memory.unlisted`). -/
def Memory.wf (m : Memory) : Bool := Memory.risesFrom 0 m

/-- Every listed address is in `lo ≤ a < hi`. -/
def Memory.within (lo hi : Nat) (m : Memory) : Bool := m.all fun c => lo ≤ c.1 && c.1 < hi

/-! ## Registers (R10, R21) -/

/-- `x[r]` (R10). -/
def State.reg (s : State) (r : Reg) : Byte := s.regs[r.toNat]'(r.isLt)

/-- `x[r] <- v` (R10): every register is an ordinary one. -/
def State.setReg (s : State) (r : Reg) (v : Byte) : State :=
  { s with regs := s.regs.set r.toNat v r.isLt }

/-- `xw[r]`, the pair `x[r+1] :: x[r]` of an even `r` (R10, R21). -/
def State.pair (s : State) (r : Reg) : Word := pairOf (s.reg (r + 1#5)) (s.reg r)

/-- `xw[r] <- v`: the low byte to `r`, the high byte to `r+1` (R10). -/
def State.setPair (s : State) (r : Reg) (v : Word) : State :=
  (s.setReg r (lowByte v)).setReg (r + 1#5) (highByte v)

/-- `pc <- a`. -/
def State.withPc (s : State) (a : ProgAddr) : State := { s with pc := a }

/-- `SP <- v`. -/
def State.withSp (s : State) (v : Word) : State := { s with sp := v }

/-- `pc <- pc + n`, modulo 0x4000 (R27). -/
def State.advance (s : State) (n : Nat) : State := s.withPc (s.pc + BitVec.ofNat 14 n)

/-- The event joins the history of R41. -/
def State.record (s : State) (e : IoEvent) : State := { s with events := e :: s.events }

/-- SREG <- `v`, all eight bits; a change of I from 0 to 1 sets `irqInhibit` (R43, R70). -/
def State.writeSreg (s : State) (v : Byte) : State :=
  { s with sreg := v, irqInhibit := s.irqInhibit || (!s.sreg.getLsbD 7 && v.getLsbD 7) }

/-- Byte `v` with bit `b` set to `x`. -/
def setBit (v : Byte) (b : BitVec 3) (x : Bool) : Byte :=
  if x then v ||| (1#8 <<< b.toNat) else v &&& ~~~(1#8 <<< b.toNat)

/-! ## The data space (R70) -/

/-- Where a data address leads: the cases of R70. -/
inductive DataPlace where
  | reg (r : Reg)
  | spl
  | sph
  | sreg
  | device
  | sram
  | outside
  deriving DecidableEq, Repr

/-- The dispatch of a data address by R70. -/
def dataPlace (a : DataAddr) : DataPlace :=
  if a.toNat ≤ 0x001F then .reg (a.extractLsb' 0 5)
  else if a = Config.splAddr then .spl
  else if a = Config.sphAddr then .sph
  else if a = Config.sregAddr then .sreg
  else if a.toNat ≤ 0x00FF then .device
  else if a.toNat ≤ Config.ramEnd.toNat then .sram
  else .outside

/-- `SRAM[a]`: the byte last written, or the arbitrary byte it has held since reset (R362; log entry 2). -/
def State.sramByte (s : State) (a : Nat) : Byte := (Memory.byteAt s.sram a).getD (Config.sramAtReset a)

/-- `SRAM[a] <- v`. -/
def State.storeSram (s : State) (a : Nat) (v : Byte) : State := { s with sram := Memory.withByte s.sram a v }

/-- `MemRead(a, 1)` (R70): the byte, and the state after the read, which only a device read changes (R41, R68). -/
def memRead (a : DataAddr) (s : State) : Result (Byte × State) :=
  match dataPlace a with
  | .reg r => .next (s.reg r, s)
  | .spl => .next (lowByte s.sp, s)
  | .sph => .next (highByte s.sp, s)
  | .sreg => .next (s.sreg, s)
  | .device => .next (Config.deviceRead s.events a, s.record (.read a))
  | .sram => .next (s.sramByte a.toNat, s)
  | .outside => .fault (.dataAddressOutOfRange s.pc a .read)

/-- `MemWrite(a, 1, v)` (R70). -/
def memWrite (a : DataAddr) (v : Byte) (s : State) : Result State :=
  match dataPlace a with
  | .reg r => .next (s.setReg r v)
  | .spl => .next (s.withSp (pairOf (highByte s.sp) v))
  | .sph => .next (s.withSp (pairOf v (lowByte s.sp)))
  | .sreg => .next (s.writeSreg v)
  | .device => .next (s.record (.write a v))
  | .sram => .next (s.storeSram a.toNat v)
  | .outside => .fault (.dataAddressOutOfRange s.pc a .write)

/-- The data address of I/O register `A`: `0x0020 + A` (R40, R200). -/
def ioAddr (a : BitVec 6) : DataAddr := 0x0020#16 + a.setWidth 16

/-- `IoRead(A)` (R12, R200). -/
def ioRead (a : BitVec 6) (s : State) : Result (Byte × State) := memRead (ioAddr a) s

/-- `IoWrite(A, v)` (R12, R200). -/
def ioWrite (a : BitVec 6) (v : Byte) (s : State) : Result State := memWrite (ioAddr a) v s

/-! ## Program memory (R60 to R62) -/

/-- `ProgByte(a)` (R12, R61) of a byte address the caller has found in range; a byte the image does not give is
refused (D26, U19; log entry 11). -/
def programByte (a : Nat) (s : State) : Result Byte :=
  match Memory.byteAt s.program a with
  | some b => .next b
  | none => .refused (.programUndefined a)

/-- `ProgWord(w)` (R12): its low byte lies at byte address `2w` (R60). -/
def programWord (w : ProgAddr) (s : State) : Result Word :=
  andThen (programByte (2 * w.toNat) s) fun b0 =>
    andThen (programByte (2 * w.toNat + 1) s) fun b1 => .next (wordOfBytes b0 b1)

/-- The instruction of two fetched words; a reserved first word faults (R130, R136). -/
def decoded (w w2 : Word) (s : State) : Result Instr :=
  match decodeWords w w2 with
  | .ok i => .next i
  | .error _ => .fault (.illegalOpcode s.pc w)

/-- The instruction at `pc`: the second word, at `(pc + 1) mod 0x4000`, is read for a two-word instruction only
(R62, R65, R136). -/
def fetch (s : State) : Result Instr :=
  andThen (programWord s.pc s) fun w =>
    if ilen w = 2 then andThen (programWord (s.pc + 1#14) s) fun w2 => decoded w w2 s
    else decoded w 0#16 s

/-- The byte of a two-byte program word that bit 0 of a byte address selects is the byte at that address; Z above
0x7FFF leaves program memory (R61, R270). -/
def lpmByte (z : Word) (s : State) : Result Byte :=
  if Config.flashWords ≤ z.toNat / 2 then .fault (.progAddressOutOfRange s.pc z) else programByte z.toNat s

/-! ## Sequencing (R14, R103, R281) -/

/-- `skip` of R14 and R103: past the next instruction, whose first word alone gives its length. -/
def skipNext (s : State) : Result State :=
  andThen (programWord (s.pc + 1#14) s) fun w => .next (s.advance (1 + ilen w))

/-- Skip the next instruction if `c` holds, else go on to it (R103). -/
def skipIf (c : Bool) (s : State) : Result State := if c then skipNext s else .next (s.advance 1)

/-- An absolute target: above 0x3FFF it faults, it is never truncated (R281). -/
def absoluteTarget (t : Nat) (s : State) : Result ProgAddr :=
  if t < Config.flashWords then .next (BitVec.ofNat 14 t) else .fault (.targetOutOfRange s.pc t)

/-- The target `pc + 1 + k` of a relative jump, modulo 0x4000 (R115, R280). -/
def relativeTarget {n : Nat} (k : BitVec n) (s : State) : ProgAddr := s.pc + 1#14 + k.signExtend 14

/-! ## The stack (R260, R81) -/

/-- `Push(v)`: `MemWrite(SP, 1, v); SP <- SP - 1` (R12). -/
def pushByte (v : Byte) (s : State) : Result State :=
  andThen (memWrite s.sp v s) fun t => .next (t.withSp (t.sp - 1#16))

/-- Push the return address `ra`: the low byte, then the high byte, whose bits 7 and 6 are 0 (R81, R283). -/
def pushReturn (ra : ProgAddr) (s : State) : Result State :=
  andThen (pushByte (lowByte (ra.setWidth 16)) s) fun t => pushByte (highByte (ra.setWidth 16)) t

/-- `Pop()`: `SP <- SP + 1; MemRead(SP, 1)` (R12): the increment precedes the read (R34, R80, R81, R260), so that a pop
of SPL or SPH reads a byte of SP already moved. R264, R287 and R290 list the write of SP last (DEDUCED, log entry 23). A
fault keeps SP as it was (R322): the outcome then holds no state. -/
def popByte (s : State) : Result (Byte × State) := memRead (s.sp + 1#16) (s.withSp (s.sp + 1#16))

/-- The return of R287 (R81): `hi <- Pop(); lo <- Pop()`, the check of the target, then `pc`. -/
def popReturn (s : State) : Result State :=
  andThen (popByte s) fun hi =>
    andThen (popByte hi.2) fun lo =>
      andThen (absoluteTarget (pairOf hi.1 lo.1).toNat lo.2) fun t => .next (lo.2.withPc t)

/-! ## Interrupts (R325 to R332) -/

/-- The number of a vector (R329). -/
def IrqVector.number : IrqVector → Nat
  | .int0 => 2 | .int1 => 3 | .pcint0 => 4 | .pcint1 => 5 | .pcint2 => 6 | .wdt => 7
  | .timer2Compa => 8 | .timer2Compb => 9 | .timer2Ovf => 10
  | .timer1Capt => 11 | .timer1Compa => 12 | .timer1Compb => 13 | .timer1Ovf => 14
  | .timer0Compa => 15 | .timer0Compb => 16 | .timer0Ovf => 17
  | .spiStc => 18 | .usartRx => 19 | .usartUdre => 20 | .usartTx => 21 | .adc => 22
  | .eeReady => 23 | .analogComp => 24 | .twi => 25 | .spmReady => 26

/-- The word address `2 * (v - 1)` a vector is entered at (R329, R330). -/
def vectorAddr (v : IrqVector) : ProgAddr := BitVec.ofNat 14 (2 * (IrqVector.number v - 1))

/-- `InterruptEntry(v)` (R330), the one operation by which the machine takes an interrupt: push `pc`, clear I and
`asleep`, go to the vector. -/
def interruptEntry (v : IrqVector) (s : State) : Result State :=
  andThen (pushReturn s.pc s) fun t =>
    .next { t with sreg := setBit t.sreg 7#3 false, asleep := false, pc := vectorAddr v }

/-- The return from an interrupt (R290, R332): the return of R287, then I <- 1, which inhibits interrupts for one
instruction if I was 0. -/
def interruptReturn (s : State) : Result State :=
  andThen (popReturn s) fun t => .next (t.writeSreg (setBit t.sreg 7#3 true))

/-- The first half of the acceptance test: I = 1 and `irqInhibit` = 0 (R327). -/
def State.mayAccept (s : State) : Bool := s.sreg.getLsbD 7 && !s.irqInhibit

/-- `IrqSource.poll()` (R326): its next answer, and the state with that answer given. -/
def State.poll (s : State) : Option IrqVector × State :=
  match s.irqAnswers with
  | [] => (none, s)
  | a :: rest => (a, { s with irqAnswers := rest })

/-- The acceptance test run before each fetch (R327): the request accepted, if one is, and the state after the poll. -/
def acceptanceTest (s : State) : Option IrqVector × State := if s.mayAccept then s.poll else (none, s)

/-- `IrqSource.ack(v); InterruptEntry(v)` (R327). -/
def acceptInterrupt (v : IrqVector) (s : State) : Result State := interruptEntry v (s.record (.irqAck v))

/-- The state an instruction executes in: `irqInhibit` holds until that instruction has completed, and is then 0 unless
the instruction itself sets it (R43, R327). -/
def State.beginInstr (s : State) : State := { s with irqInhibit := false }

/-! ## Placing an instruction in program memory -/

/-- The program image with `bs` at consecutive byte addresses from `a`, modulo the size of program memory. -/
def placeBytes (p : Memory) (a : Nat) : List Byte → Memory
  | [] => p
  | b :: bs => placeBytes (Memory.withByte p (a % (2 * Config.flashWords)) b) (a + 1) bs

end Sys2Proof.Machine
end

