-- ==== Sys2Proof/Machine/Flags.lean ====
section
/-! DEFINITION. The flags of SREG and every flag computation of the spec (R28, R29, R151 to R158, R171 to R173, R190 to
R196, R231, R232). -/

namespace Sys2Proof.Machine

/-- The eight flags of SREG by name, from bit 7 to bit 0 (R28). -/
structure Flags where
  i : Bool
  t : Bool
  h : Bool
  s : Bool
  v : Bool
  n : Bool
  z : Bool
  c : Bool
  deriving DecidableEq, Repr

/-- The flags an SREG byte holds (R28). -/
def flagsOf (b : Byte) : Flags where
  i := b.getLsbD 7
  t := b.getLsbD 6
  h := b.getLsbD 5
  s := b.getLsbD 4
  v := b.getLsbD 3
  n := b.getLsbD 2
  z := b.getLsbD 1
  c := b.getLsbD 0

/-- The SREG byte that holds the flags (R28). -/
def Flags.byte (f : Flags) : Byte :=
  BitVec.ofBool f.i ++ BitVec.ofBool f.t ++ BitVec.ofBool f.h ++ BitVec.ofBool f.s ++
    BitVec.ofBool f.v ++ BitVec.ofBool f.n ++ BitVec.ofBool f.z ++ BitVec.ofBool f.c

/-- The flags of the state. -/
def State.flags (s : State) : Flags := flagsOf s.sreg

/-- SREG <- the flags. The callers leave I as it is, so `irqInhibit` is not concerned (R43). -/
def State.setFlags (s : State) (f : Flags) : State := { s with sreg := f.byte }

/-- N, V, Z and S = N ^ V written, the other flags kept: what every instruction that writes N or V does (R29, D20). -/
def Flags.withNVZ (f : Flags) (n v z : Bool) : Flags := { f with n := n, v := v, z := z, s := n ^^ v }

/-- `AddFlags` (R171) for operands `d`, `s` and result `r`, by its bit equations. -/
def addFlags (f : Flags) (d s r : Byte) : Flags :=
  { f.withNVZ (r.getLsbD 7)
      ((d.getLsbD 7 && s.getLsbD 7 && !r.getLsbD 7) || (!d.getLsbD 7 && !s.getLsbD 7 && r.getLsbD 7))
      (r == 0#8) with
    h := (d.getLsbD 3 && s.getLsbD 3) || (s.getLsbD 3 && !r.getLsbD 3) || (!r.getLsbD 3 && d.getLsbD 3)
    c := (d.getLsbD 7 && s.getLsbD 7) || (s.getLsbD 7 && !r.getLsbD 7) || (!r.getLsbD 7 && d.getLsbD 7) }

/-- `SubFlags` (R172) for minuend `d`, subtrahend `s` and result `r`, by its bit equations; with `chain`, Z can only go
to 0. -/
def subFlags (f : Flags) (d s r : Byte) (chain : Bool) : Flags :=
  { f.withNVZ (r.getLsbD 7)
      ((d.getLsbD 7 && !s.getLsbD 7 && !r.getLsbD 7) || (!d.getLsbD 7 && s.getLsbD 7 && r.getLsbD 7))
      (if chain then r == 0#8 && f.z else r == 0#8) with
    h := (!d.getLsbD 3 && s.getLsbD 3) || (s.getLsbD 3 && r.getLsbD 3) || (r.getLsbD 3 && !d.getLsbD 3)
    c := (!d.getLsbD 7 && s.getLsbD 7) || (s.getLsbD 7 && r.getLsbD 7) || (r.getLsbD 7 && !d.getLsbD 7) }

/-- `LogicFlags` (R173): V <- 0, S = N; C and H kept. -/
def logicFlags (f : Flags) (r : Byte) : Flags := f.withNVZ (r.getLsbD 7) false (r == 0#8)

/-- The flags of `com` (R151): those of a logic result, and C <- 1. -/
def comFlags (f : Flags) (r : Byte) : Flags := { logicFlags f r with c := true }

/-- The flags of `neg` (R152) for operand `d` and result `r`. -/
def negFlags (f : Flags) (d r : Byte) : Flags :=
  { f.withNVZ (r.getLsbD 7) (r == 0x80#8) (r == 0#8) with
    h := r.getLsbD 3 || d.getLsbD 3
    c := r != 0#8 }

/-- The flags of `inc` (R154): V when the result is 0x80; C and H kept. -/
def incFlags (f : Flags) (r : Byte) : Flags := f.withNVZ (r.getLsbD 7) (r == 0x80#8) (r == 0#8)

/-- The flags of `dec` (R158): V when the result is 0x7F; C and H kept. -/
def decFlags (f : Flags) (r : Byte) : Flags := f.withNVZ (r.getLsbD 7) (r == 0x7F#8) (r == 0#8)

/-- The flags of `asr`, `lsr` and `ror` (R155 to R157): C is bit 0 of the operand `d`, V = N ^ C with the new C; H
kept. -/
def shiftFlags (f : Flags) (d r : Byte) : Flags :=
  { f.withNVZ (r.getLsbD 7) (r.getLsbD 7 ^^ d.getLsbD 0) (r == 0#8) with c := d.getLsbD 0 }

/-- The flags of the multiplies (R190 to R196): C is bit 15 of the product `p`, Z tests the word written, `w`. -/
def mulFlags (f : Flags) (p w : Word) : Flags := { f with c := p.getLsbD 15, z := w == 0#16 }

/-- The flags of `adiw` (R231) for operand `w` and result `r`; H kept. -/
def adiwFlags (f : Flags) (w r : Word) : Flags :=
  { f.withNVZ (r.getLsbD 15) (!w.getLsbD 15 && r.getLsbD 15) (r == 0#16) with
    c := !r.getLsbD 15 && w.getLsbD 15 }

/-- The flags of `sbiw` (R232) for operand `w` and result `r`; H kept, Z not chained. -/
def sbiwFlags (f : Flags) (w r : Word) : Flags :=
  { f.withNVZ (r.getLsbD 15) (w.getLsbD 15 && !r.getLsbD 15) (r == 0#16) with
    c := r.getLsbD 15 && !w.getLsbD 15 }

/-- A borrow or carry in, as a byte. -/
def carryByte (c : Bool) : Byte := (BitVec.ofBool c).setWidth 8

/-- The result byte of `AddFlags(D, S, Cin)` (R171). -/
def addResult (d s : Byte) (cin : Bool) : Byte := d + s + carryByte cin

/-- The result byte of `SubFlags(D, S, Cin, chain)` (R172). -/
def subResult (d s : Byte) (cin : Bool) : Byte := d - s - carryByte cin

end Sys2Proof.Machine
end

