-- ==== Sys2Proof/Machine/Operands.lean ====
section
/-! DEFINITION. The operand forms: the pointers X, Y, Z and their address arithmetic (spec R21, R80, R240, R259, R262),
and the shapes that instructions of one form share. -/

namespace Sys2Proof.Machine

/-- The pointer registers (R21). -/
inductive Pointer where
  | x
  | y
  | z
  deriving DecidableEq, Repr

/-- The low register of a pointer: r26, r28 or r30 (R21). -/
def Pointer.low : Pointer → Reg
  | .x => 26#5
  | .y => 28#5
  | .z => 30#5

/-- The 16-bit value of a pointer (R10, R259). -/
def State.pointer (s : State) (p : Pointer) : Word := s.pair p.low

/-- Write a pointer. -/
def State.setPointer (s : State) (p : Pointer) (v : Word) : State := s.setPair p.low v

/-- The data register is one of the pointer's two registers (R262). -/
def Pointer.owns (p : Pointer) (r : Reg) : Bool := r == p.low || r == p.low + 1#5

/-- The effective address of a displacement form, modulo 65536; `q` = 0 is the plain form (R259). -/
def displacedAddr (p : Pointer) (q : BitVec 6) (s : State) : DataAddr := s.pointer p + q.setWidth 16

/-- The two ways a pointer is updated (R80, R259). -/
inductive Update where
  | postIncrement
  | preDecrement
  deriving DecidableEq, Repr

/-- The address accessed: the old pointer for post-increment, the decremented one for pre-decrement (R80, R259). -/
def updateAddr (u : Update) (p : Pointer) (s : State) : DataAddr :=
  match u with
  | .postIncrement => s.pointer p
  | .preDecrement => s.pointer p - 1#16

/-- The value the pointer is left with (R80, R259). -/
def updatedPointer (u : Update) (p : Pointer) (s : State) : Word :=
  match u with
  | .postIncrement => s.pointer p + 1#16
  | .preDecrement => s.pointer p - 1#16

/-! ## Shared shapes -/

/-- Load the byte at `a` into `d` and go on past `n` words (R221, R241, R242, R249). -/
def loadAt (d : Reg) (a : DataAddr) (n : Nat) (s : State) : Result State :=
  andThen (memRead a s) fun r => .next ((r.2.setReg d r.1).advance n)

/-- Store register `r` at `a` and go on past `n` words (R222, R243, R244, R256). -/
def storeAt (a : DataAddr) (r : Reg) (n : Nat) (s : State) : Result State :=
  andThen (memWrite a (s.reg r) s) fun t => .next (t.advance n)

/-- A load with pointer update (R245 to R248, R250, R251): the access, then the pointer, then `d`. `w` is the
instruction's word, recorded if the operands are an undefined combination (R262). -/
def loadUpdate (w : Word) (u : Update) (p : Pointer) (d : Reg) (s : State) : Result State :=
  if p.owns d then .fault (.undefinedOperandCombination s.pc w)
  else andThen (memRead (updateAddr u p s) s) fun r =>
    .next (((r.2.setPointer p (updatedPointer u p s)).setReg d r.1).advance 1)

/-- A store with pointer update (R252 to R255, R257, R258): the access, then the pointer. -/
def storeUpdate (w : Word) (u : Update) (p : Pointer) (r : Reg) (s : State) : Result State :=
  if p.owns r then .fault (.undefinedOperandCombination s.pc w)
  else andThen (memWrite (updateAddr u p s) (s.reg r) s) fun t =>
    .next ((t.setPointer p (updatedPointer u p s)).advance 1)

/-- A register result with its flags: `x[d] <- v`, SREG, `pc <- pc + 1` (R150, R170, R223). -/
def regResult (d : Reg) (v : Byte) (f : Flags) (s : State) : Result State :=
  .next (((s.setReg d v).setFlags f).advance 1)

/-- A word result with its flags in the pair of low register `d` (R190, R230). -/
def pairResult (d : Reg) (v : Word) (f : Flags) (s : State) : Result State :=
  .next (((s.setPair d v).setFlags f).advance 1)

/-- `AddFlags` into `d` (R171): the sum of `x[d]`, `b` and the carry in. -/
def addInto (d : Reg) (b : Byte) (cin : Bool) (s : State) : Result State :=
  let r := addResult (s.reg d) b cin
  regResult d r (addFlags s.flags (s.reg d) b r) s

/-- `SubFlags` into `d` (R172). -/
def subInto (d : Reg) (b : Byte) (cin chain : Bool) (s : State) : Result State :=
  let r := subResult (s.reg d) b cin
  regResult d r (subFlags s.flags (s.reg d) b r chain) s

/-- `SubFlags` with the result discarded (R174, R178, R225). -/
def compare (d : Reg) (b : Byte) (cin chain : Bool) (s : State) : Result State :=
  .next ((s.setFlags (subFlags s.flags (s.reg d) b (subResult (s.reg d) b cin) chain)).advance 1)

/-- A logic result into `d` with `LogicFlags` (R173). -/
def logicInto (d : Reg) (r : Byte) (s : State) : Result State := regResult d r (logicFlags s.flags r) s

/-- A byte into `d`, no flag (R153, R159, R184, R224). -/
def copyInto (d : Reg) (v : Byte) (s : State) : Result State := .next ((s.setReg d v).advance 1)

/-- A product `p` whose written word is `w`, into r1:r0 (R190). -/
def productResult (p w : Word) (s : State) : Result State := pairResult 0#5 w (mulFlags s.flags p w) s

end Sys2Proof.Machine
end

