-- ==== Sys2Proof/Machine/ControlTransfer.lean ====
section
/-! DEFINITION. Control transfer (spec file 47_control_transfer.md). -/

namespace Sys2Proof.Machine

/-- Go to an absolute word address in range (R281, R282, R285). -/
def jumpTo (t : Nat) (s : State) : Result State :=
  andThen (absoluteTarget t s) fun a => .next (s.withPc a)

/-- Push the address of the word after an instruction of `n` words and go to an absolute word address in range
(R281, R283, R288): the target is checked before the pushes (R323). -/
def callTo (t n : Nat) (s : State) : Result State :=
  andThen (absoluteTarget t s) fun a =>
    andThen (pushReturn (s.pc + BitVec.ofNat 14 n) s) fun u => .next (u.withPc a)

/-- Branch if `c` (R293, R294). -/
def branchIf (c : Bool) (k : BitVec 7) (s : State) : Result State :=
  .next (if c then s.withPc (relativeTarget k s) else s.advance 1)

/-- `jmp k` (R282). -/
def execJmp (k : BitVec 22) (s : State) : Result State := jumpTo k.toNat s

/-- `call k` (R283). -/
def execCall (k : BitVec 22) (s : State) : Result State := callTo k.toNat 2 s

/-- `ijmp` (R285). -/
def execIjmp (s : State) : Result State := jumpTo (s.pointer .z).toNat s

/-- `eijmp` (R286): not on this device. -/
def execEijmp (s : State) : Result State := .fault (.notOnThisDevice s.pc (firstWord .eijmp))

/-- `ret` (R287). -/
def execRet (s : State) : Result State := popReturn s

/-- `icall` (R288). -/
def execIcall (s : State) : Result State := callTo (s.pointer .z).toNat 1 s

/-- `eicall` (R289): not on this device. -/
def execEicall (s : State) : Result State := .fault (.notOnThisDevice s.pc (firstWord .eicall))

/-- `reti` (R290). -/
def execReti (s : State) : Result State := interruptReturn s

/-- `rjmp k` (R291). -/
def execRjmp (k : BitVec 12) (s : State) : Result State := .next (s.withPc (relativeTarget k s))

/-- `rcall k` (R292). -/
def execRcall (k : BitVec 12) (s : State) : Result State :=
  andThen (pushReturn (s.pc + 1#14) s) fun t => .next (t.withPc (relativeTarget k s))

/-- `brbs s,k` (R293). -/
def execBrbs (b : BitVec 3) (k : BitVec 7) (s : State) : Result State := branchIf (s.sreg.getLsbD b.toNat) k s

/-- `brbc s,k` (R294). -/
def execBrbc (b : BitVec 3) (k : BitVec 7) (s : State) : Result State := branchIf (!s.sreg.getLsbD b.toNat) k s

end Sys2Proof.Machine
end

