-- ==== Sys2Proof/Machine/DirectImmediate.lean ====
section
/-! DEFINITION. Direct SRAM addressing and immediates (spec file 44_direct_sram_and_immediate.md). -/

namespace Sys2Proof.Machine

/-- `lds Rd,k` (R221). -/
def execLds (d : Reg) (k : BitVec 16) (s : State) : Result State := loadAt d k 2 s

/-- `sts k,Rr` (R222). -/
def execSts (k : BitVec 16) (r : Reg) (s : State) : Result State := storeAt k r 2 s

/-- `ldi Rd,K` (R224; `ser Rd` when `K` = 0xFF). -/
def execLdi (d : Reg) (k : BitVec 8) (s : State) : Result State := copyInto d k s

/-- `cpi Rd,K` (R225). -/
def execCpi (d : Reg) (k : BitVec 8) (s : State) : Result State := compare d k false false s

/-- `sbci Rd,K` (R226). -/
def execSbci (d : Reg) (k : BitVec 8) (s : State) : Result State := subInto d k s.flags.c true s

/-- `subi Rd,K` (R227). -/
def execSubi (d : Reg) (k : BitVec 8) (s : State) : Result State := subInto d k false false s

/-- `ori Rd,K` (R228; `sbr Rd,K`). -/
def execOri (d : Reg) (k : BitVec 8) (s : State) : Result State := logicInto d (s.reg d ||| k) s

/-- `andi Rd,K` (R229; `cbr Rd,0xFF-K`). -/
def execAndi (d : Reg) (k : BitVec 8) (s : State) : Result State := logicInto d (s.reg d &&& k) s

/-- `adiw Rd,K` (R231). -/
def execAdiw (d : Reg) (k : BitVec 6) (s : State) : Result State :=
  let r := s.pair d + k.setWidth 16
  pairResult d r (adiwFlags s.flags (s.pair d) r) s

/-- `sbiw Rd,K` (R232). -/
def execSbiw (d : Reg) (k : BitVec 6) (s : State) : Result State :=
  let r := s.pair d - k.setWidth 16
  pairResult d r (sbiwFlags s.flags (s.pair d) r) s

/-- `des K` (R233): not on this device. -/
def execDes (k : BitVec 4) (s : State) : Result State := .fault (.notOnThisDevice s.pc (firstWord (.des k)))

end Sys2Proof.Machine
end

