-- ==== Sys2Proof/Machine/IoDirect.lean ====
section
/-! DEFINITION. Direct I/O addressing and the bits of SREG (spec file 43_io_direct.md). -/

namespace Sys2Proof.Machine

/-- The 6-bit I/O address of a register that `cbi sbic sbi sbis` can name, 0 to 31 (R116). -/
def lowIo (a : BitVec 5) : BitVec 6 := a.setWidth 6

/-- Read I/O register `a`, change bit `b` to `x`, write the byte back (R69, R203, R205). -/
def changeIoBit (a : BitVec 5) (b : BitVec 3) (x : Bool) (s : State) : Result State :=
  andThen (ioRead (lowIo a) s) fun r =>
    andThen (ioWrite (lowIo a) (setBit r.1 b x) r.2) fun t => .next (t.advance 1)

/-- Read I/O register `a` once and skip if its bit `b` is `x` (R204, R206). -/
def skipOnIoBit (a : BitVec 5) (b : BitVec 3) (x : Bool) (s : State) : Result State :=
  andThen (ioRead (lowIo a) s) fun r => skipIf (r.1.getLsbD b.toNat == x) r.2

/-- `in Rd,A` (R201). -/
def execIn (d : Reg) (a : BitVec 6) (s : State) : Result State :=
  andThen (ioRead a s) fun r => .next ((r.2.setReg d r.1).advance 1)

/-- `out A,Rr` (R202). -/
def execOut (a : BitVec 6) (r : Reg) (s : State) : Result State :=
  andThen (ioWrite a (s.reg r) s) fun t => .next (t.advance 1)

/-- `cbi A,b` (R203). -/
def execCbi (a : BitVec 5) (b : BitVec 3) (s : State) : Result State := changeIoBit a b false s

/-- `sbic A,b` (R204). -/
def execSbic (a : BitVec 5) (b : BitVec 3) (s : State) : Result State := skipOnIoBit a b false s

/-- `sbi A,b` (R205). -/
def execSbi (a : BitVec 5) (b : BitVec 3) (s : State) : Result State := changeIoBit a b true s

/-- `sbis A,b` (R206). -/
def execSbis (a : BitVec 5) (b : BitVec 3) (s : State) : Result State := skipOnIoBit a b true s

/-- `bset s` (R207): `sei` from I = 0 inhibits interrupts for one instruction, by `State.writeSreg`. -/
def execBset (b : BitVec 3) (s : State) : Result State :=
  .next ((s.writeSreg (setBit s.sreg b true)).advance 1)

/-- `bclr s` (R208). -/
def execBclr (b : BitVec 3) (s : State) : Result State :=
  .next ((s.writeSreg (setBit s.sreg b false)).advance 1)

end Sys2Proof.Machine
end

