-- ==== Sys2Proof/Machine/McuControl.lean ====
section
/-! DEFINITION. MCU control (spec file 48_mcu_control.md). -/

namespace Sys2Proof.Machine

/-- `nop` (R311). -/
def execNop (s : State) : Result State := .next (s.advance 1)

/-- `sleep` (R312): past the instruction, then asleep until an interrupt is accepted. -/
def execSleep (s : State) : Result State := .next { s.advance 1 with asleep := true }

/-- `break` (R313): for on-chip debug only. -/
def execBreak (s : State) : Result State := .fault (.debugOnly s.pc)

/-- `wdr` (R314): an event for the device, no architectural effect. -/
def execWdr (s : State) : Result State := .next ((s.record .watchdogReset).advance 1)

end Sys2Proof.Machine
end

