-- ==== Sys2Proof/Machine/Multiply.lean ====
section
/-! DEFINITION. The multiplies (spec file 42_multiply.md): an exact product, reduced modulo 65536. -/

namespace Sys2Proof.Machine

/-- `mul Rd,Rr` (R191): unsigned by unsigned. -/
def execMul (d r : Reg) (s : State) : Result State :=
  let p : Word := BitVec.ofNat 16 ((s.reg d).toNat * (s.reg r).toNat)
  productResult p p s

/-- `muls Rd,Rr` (R192): signed by signed. -/
def execMuls (d r : Reg) (s : State) : Result State :=
  let p : Word := BitVec.ofInt 16 ((s.reg d).toInt * (s.reg r).toInt)
  productResult p p s

/-- `mulsu Rd,Rr` (R193): `Rd` signed, `Rr` unsigned. -/
def execMulsu (d r : Reg) (s : State) : Result State :=
  let p : Word := BitVec.ofInt 16 ((s.reg d).toInt * ((s.reg r).toNat : Int))
  productResult p p s

/-- `fmul Rd,Rr` (R194): the unsigned product shifted left by one. -/
def execFmul (d r : Reg) (s : State) : Result State :=
  let p : Word := BitVec.ofNat 16 ((s.reg d).toNat * (s.reg r).toNat)
  productResult p (p <<< 1) s

/-- `fmuls Rd,Rr` (R195): the signed product shifted left by one. -/
def execFmuls (d r : Reg) (s : State) : Result State :=
  let p : Word := BitVec.ofInt 16 ((s.reg d).toInt * (s.reg r).toInt)
  productResult p (p <<< 1) s

/-- `fmulsu Rd,Rr` (R196): the signed by unsigned product shifted left by one. -/
def execFmulsu (d r : Reg) (s : State) : Result State :=
  let p : Word := BitVec.ofInt 16 ((s.reg d).toInt * ((s.reg r).toNat : Int))
  productResult p (p <<< 1) s

end Sys2Proof.Machine
end

