-- ==== Sys2Proof/Machine/ProgramMemory.lean ====
section
/-! DEFINITION. Indirect program memory addressing (spec file 46_program_memory.md). -/

namespace Sys2Proof.Machine

/-- `lpm`, into r0 (R271). -/
def execLpm (s : State) : Result State :=
  andThen (lpmByte (s.pointer .z) s) fun v => .next ((s.setReg 0#5 v).advance 1)

/-- `lpm Rd,Z` (R272). -/
def execLpmZ (d : Reg) (s : State) : Result State :=
  andThen (lpmByte (s.pointer .z) s) fun v => .next ((s.setReg d v).advance 1)

/-- `lpm Rd,Z+` (R273): the byte, then Z, then `Rd`. -/
def execLpmZInc (d : Reg) (s : State) : Result State :=
  if Pointer.z.owns d then .fault (.undefinedOperandCombination s.pc (firstWord (.lpmZInc d)))
  else andThen (lpmByte (s.pointer .z) s) fun v =>
    .next (((s.setPointer .z (s.pointer .z + 1#16)).setReg d v).advance 1)

end Sys2Proof.Machine
end

