-- ==== Sys2Proof/Machine/SingleRegister.lean ====
section
/-! DEFINITION. Direct register addressing, single register (spec file 40_single_register.md). -/

namespace Sys2Proof.Machine

/-- `com Rd` (R151). -/
def execCom (d : Reg) (s : State) : Result State :=
  let r := 0xFF#8 - s.reg d
  regResult d r (comFlags s.flags r) s

/-- `neg Rd` (R152). -/
def execNeg (d : Reg) (s : State) : Result State :=
  let r := 0x00#8 - s.reg d
  regResult d r (negFlags s.flags (s.reg d) r) s

/-- `swap Rd` (R153): the nibbles change places, no flag. -/
def execSwap (d : Reg) (s : State) : Result State :=
  copyInto d ((s.reg d).extractLsb' 0 4 ++ (s.reg d).extractLsb' 4 4) s

/-- `inc Rd` (R154). -/
def execInc (d : Reg) (s : State) : Result State :=
  let r := s.reg d + 1#8
  regResult d r (incFlags s.flags r) s

/-- `asr Rd` (R155): bit 7 is kept, bit 0 goes to C. -/
def execAsr (d : Reg) (s : State) : Result State :=
  let r : Byte := (s.reg d).extractLsb' 7 1 ++ (s.reg d).extractLsb' 1 7
  regResult d r (shiftFlags s.flags (s.reg d) r) s

/-- `lsr Rd` (R156): 0 enters bit 7, bit 0 goes to C. -/
def execLsr (d : Reg) (s : State) : Result State :=
  let r : Byte := 0#1 ++ (s.reg d).extractLsb' 1 7
  regResult d r (shiftFlags s.flags (s.reg d) r) s

/-- `ror Rd` (R157): the old C enters bit 7, bit 0 goes to C. -/
def execRor (d : Reg) (s : State) : Result State :=
  let r : Byte := BitVec.ofBool s.flags.c ++ (s.reg d).extractLsb' 1 7
  regResult d r (shiftFlags s.flags (s.reg d) r) s

/-- `dec Rd` (R158). -/
def execDec (d : Reg) (s : State) : Result State :=
  let r := s.reg d - 1#8
  regResult d r (decFlags s.flags r) s

/-- `bld Rd,b` (R159): bit `b` of `Rd` becomes T. -/
def execBld (d : Reg) (b : BitVec 3) (s : State) : Result State :=
  copyInto d (setBit (s.reg d) b s.flags.t) s

/-- `bst Rr,b` (R160): T becomes bit `b` of `Rr`. -/
def execBst (r : Reg) (b : BitVec 3) (s : State) : Result State :=
  .next ((s.setFlags { s.flags with t := (s.reg r).getLsbD b.toNat }).advance 1)

/-- `sbrc Rr,b` (R161): skip if bit `b` of `Rr` is 0. -/
def execSbrc (r : Reg) (b : BitVec 3) (s : State) : Result State :=
  skipIf (!(s.reg r).getLsbD b.toNat) s

/-- `sbrs Rr,b` (R162): skip if bit `b` of `Rr` is 1. -/
def execSbrs (r : Reg) (b : BitVec 3) (s : State) : Result State :=
  skipIf ((s.reg r).getLsbD b.toNat) s

end Sys2Proof.Machine
end

