-- ==== Sys2Proof/Machine/SramIndirect.lean ====
section
/-! DEFINITION. Indirect SRAM data addressing and the stack (spec file 45_sram_indirect.md). -/

namespace Sys2Proof.Machine

/-- `ldd Rd,Z+q` (R241). -/
def execLddZ (d : Reg) (q : BitVec 6) (s : State) : Result State := loadAt d (displacedAddr .z q s) 1 s

/-- `ldd Rd,Y+q` (R242). -/
def execLddY (d : Reg) (q : BitVec 6) (s : State) : Result State := loadAt d (displacedAddr .y q s) 1 s

/-- `std Z+q,Rr` (R243). -/
def execStdZ (q : BitVec 6) (r : Reg) (s : State) : Result State := storeAt (displacedAddr .z q s) r 1 s

/-- `std Y+q,Rr` (R244). -/
def execStdY (q : BitVec 6) (r : Reg) (s : State) : Result State := storeAt (displacedAddr .y q s) r 1 s

/-- `ld Rd,Z+` (R245). -/
def execLdZInc (d : Reg) (s : State) : Result State :=
  loadUpdate (firstWord (.ldZInc d)) .postIncrement .z d s

/-- `ld Rd,-Z` (R246). -/
def execLdZDec (d : Reg) (s : State) : Result State :=
  loadUpdate (firstWord (.ldZDec d)) .preDecrement .z d s

/-- `ld Rd,Y+` (R247). -/
def execLdYInc (d : Reg) (s : State) : Result State :=
  loadUpdate (firstWord (.ldYInc d)) .postIncrement .y d s

/-- `ld Rd,-Y` (R248). -/
def execLdYDec (d : Reg) (s : State) : Result State :=
  loadUpdate (firstWord (.ldYDec d)) .preDecrement .y d s

/-- `ld Rd,X` (R249). -/
def execLdX (d : Reg) (s : State) : Result State := loadAt d (s.pointer .x) 1 s

/-- `ld Rd,X+` (R250). -/
def execLdXInc (d : Reg) (s : State) : Result State :=
  loadUpdate (firstWord (.ldXInc d)) .postIncrement .x d s

/-- `ld Rd,-X` (R251). -/
def execLdXDec (d : Reg) (s : State) : Result State :=
  loadUpdate (firstWord (.ldXDec d)) .preDecrement .x d s

/-- `st Z+,Rr` (R252). -/
def execStZInc (r : Reg) (s : State) : Result State :=
  storeUpdate (firstWord (.stZInc r)) .postIncrement .z r s

/-- `st -Z,Rr` (R253). -/
def execStZDec (r : Reg) (s : State) : Result State :=
  storeUpdate (firstWord (.stZDec r)) .preDecrement .z r s

/-- `st Y+,Rr` (R254). -/
def execStYInc (r : Reg) (s : State) : Result State :=
  storeUpdate (firstWord (.stYInc r)) .postIncrement .y r s

/-- `st -Y,Rr` (R255). -/
def execStYDec (r : Reg) (s : State) : Result State :=
  storeUpdate (firstWord (.stYDec r)) .preDecrement .y r s

/-- `st X,Rr` (R256). -/
def execStX (r : Reg) (s : State) : Result State := storeAt (s.pointer .x) r 1 s

/-- `st X+,Rr` (R257). -/
def execStXInc (r : Reg) (s : State) : Result State :=
  storeUpdate (firstWord (.stXInc r)) .postIncrement .x r s

/-- `st -X,Rr` (R258). -/
def execStXDec (r : Reg) (s : State) : Result State :=
  storeUpdate (firstWord (.stXDec r)) .preDecrement .x r s

/-- `push Rr` (R263). -/
def execPush (r : Reg) (s : State) : Result State :=
  andThen (pushByte (s.reg r) s) fun t => .next (t.advance 1)

/-- `pop Rd` (R264): `Pop()` of R12, then `Rd`. That a pop of SPL or SPH reads SP already moved is log entry 23. -/
def execPop (d : Reg) (s : State) : Result State :=
  andThen (popByte s) fun r => .next ((r.2.setReg d r.1).advance 1)

end Sys2Proof.Machine
end

