-- ==== Sys2Proof/Machine/TwoRegister.lean ====
section
/-! DEFINITION. Direct register addressing, two registers (spec file 41_two_register.md). -/

namespace Sys2Proof.Machine

/-- `cpc Rd,Rr` (R174). -/
def execCpc (d r : Reg) (s : State) : Result State := compare d (s.reg r) s.flags.c true s

/-- `sbc Rd,Rr` (R175). -/
def execSbc (d r : Reg) (s : State) : Result State := subInto d (s.reg r) s.flags.c true s

/-- `add Rd,Rr` (R176; `lsl Rd` when `Rr` = `Rd`). -/
def execAdd (d r : Reg) (s : State) : Result State := addInto d (s.reg r) false s

/-- `cpse Rd,Rr` (R177): skip if equal, no flag. -/
def execCpse (d r : Reg) (s : State) : Result State := skipIf (s.reg d == s.reg r) s

/-- `cp Rd,Rr` (R178). -/
def execCp (d r : Reg) (s : State) : Result State := compare d (s.reg r) false false s

/-- `sub Rd,Rr` (R179). -/
def execSub (d r : Reg) (s : State) : Result State := subInto d (s.reg r) false false s

/-- `adc Rd,Rr` (R180; `rol Rd` when `Rr` = `Rd`). -/
def execAdc (d r : Reg) (s : State) : Result State := addInto d (s.reg r) s.flags.c s

/-- `and Rd,Rr` (R181; `tst Rd` when `Rr` = `Rd`). -/
def execAnd (d r : Reg) (s : State) : Result State := logicInto d (s.reg d &&& s.reg r) s

/-- `eor Rd,Rr` (R182; `clr Rd` when `Rr` = `Rd`). -/
def execEor (d r : Reg) (s : State) : Result State := logicInto d (s.reg d ^^^ s.reg r) s

/-- `or Rd,Rr` (R183). -/
def execOr (d r : Reg) (s : State) : Result State := logicInto d (s.reg d ||| s.reg r) s

/-- `mov Rd,Rr` (R184). -/
def execMov (d r : Reg) (s : State) : Result State := copyInto d (s.reg r) s

/-- `movw Rd,Rr` (R185): both registers of the source pair are read first. -/
def execMovw (d r : Reg) (s : State) : Result State := .next ((s.setPair d (s.pair r)).advance 1)

end Sys2Proof.Machine
end

