-- ==== Sys2Proof/Machine/Step.lean ====
section
/-! DEFINITION. One step of the machine (spec R13, R312, R327), and the placing of an instruction where the next step
fetches it. -/

namespace Sys2Proof.Machine

/-- One step: the acceptance test of R327, then either the entry of the accepted interrupt, or, if the CPU is asleep,
nothing (R312), or the fetch and execution of the instruction at `pc`. -/
def step (s : State) : Host.Outcome State Fault Refusal :=
  match acceptanceTest s with
  | (some v, t) => acceptInterrupt v t
  | (none, t) => if t.asleep then .next t else andThen (fetch t) fun i => exec i t.beginInstr

/-- The state with the instruction of a word of spec/opcode_table.json in program memory at `pc`, so that the next step
runs it: its bits above `nbits` are 0, up to the two words of the longest instruction. The CPU is made awake, and an
interrupt that the next step would accept is held off for that one instruction, as R43 does; neither changes a state that
was awake with no request to accept. -/
def State.withFetchWord (s : State) (nbits w : Nat) : State :=
  { s with
    program := placeBytes s.program (2 * s.pc.toNat) (tableBytes nbits w)
    asleep := false
    irqInhibit := s.irqInhibit || (acceptanceTest s).1.isSome }

end Sys2Proof.Machine
end

