-- ==== Sys2Proof/Safety.lean ====
section
/-! DEFINITION. The terms claims are made in: the view of the data space that a read gives without disturbing a device,
what an instruction leaves unchanged, the invariant every step keeps, and how a run ends (spec R372). -/

namespace Sys2Proof.Machine

/-- The byte a read of data address `a` gives, where the spec makes that address plain state: a register, SPL, SPH,
SREG or SRAM (R68, R70). A device register and an address above 0x08FF have none. -/
def State.dataByte (s : State) (a : DataAddr) : Option Byte :=
  match dataPlace a with
  | .reg r => some (s.reg r)
  | .spl => some (lowByte s.sp)
  | .sph => some (highByte s.sp)
  | .sreg => some s.sreg
  | .sram => some (s.sramByte a.toNat)
  | .device => none
  | .outside => none

/-- The byte a read of data address `a` gives: that of `State.dataByte`, or the device's answer (R41, R70). -/
def State.readByte (s : State) (a : DataAddr) : Byte := (s.dataByte a).getD (Config.deviceRead s.events a)

/-- The event history after a read of data address `a`: a device read is recorded, no other (R41, R68). -/
def State.eventsAfterRead (s : State) (a : DataAddr) : List IoEvent :=
  if dataPlace a = .device then .read a :: s.events else s.events

/-- The event history after a write of `v` to data address `a` (R41, R68). -/
def State.eventsAfterWrite (s : State) (a : DataAddr) (v : Byte) : List IoEvent :=
  if dataPlace a = .device then .write a v :: s.events else s.events

/-- The data address of general register `r` (R23). -/
def regAddr (r : Reg) : DataAddr := r.setWidth 16

/-- The state after a read of data address `a`: only the event history can differ. -/
def State.afterRead (s : State) (a : DataAddr) : State := { s with events := s.eventsAfterRead a }

/-- `irqInhibit` after a write of `v` to data address `a`: set by a write of SREG that turns I from 0 to 1 (R43). -/
def State.inhibitAfterWrite (s : State) (a : DataAddr) (v : Byte) : Bool :=
  s.irqInhibit || (a == Config.sregAddr && !s.sreg.getLsbD 7 && v.getLsbD 7)

/-- From `s` to `t` nothing changes but the general registers of `ws`, the SREG bits that are 1 in `fl`, and `pc`:
every other register and flag, SP, every byte of SRAM and of program memory, the two model bits, the interrupt source and
the event history are as before. -/
structure RegFrame (s t : State) (ws : List Reg) (fl : Byte) : Prop where
  regs : ∀ r, r ∉ ws → t.reg r = s.reg r
  flags : ∀ b, fl.getLsbD b = false → t.sreg.getLsbD b = s.sreg.getLsbD b
  sp : t.sp = s.sp
  sram : ∀ a, t.sramByte a = s.sramByte a
  program : ∀ a, Memory.byteAt t.program a = Memory.byteAt s.program a
  irqInhibit : t.irqInhibit = s.irqInhibit
  asleep : t.asleep = s.asleep
  irqAnswers : t.irqAnswers = s.irqAnswers
  events : t.events = s.events

/-- From `s` to `t` no byte of the data space (registers, SP, SREG and SRAM alike) changes but those at the addresses of
`ws`; program memory, `asleep` and the interrupt source are as before. The event history, `irqInhibit` and `pc` are not
spoken of. -/
structure DataFrame (s t : State) (ws : List DataAddr) : Prop where
  bytes : ∀ a, a ∉ ws → t.dataByte a = s.dataByte a
  program : ∀ a, Memory.byteAt t.program a = Memory.byteAt s.program a
  asleep : t.asleep = s.asleep
  irqAnswers : t.irqAnswers = s.irqAnswers

/-- From `s` to `t` the byte `v` was stored at data address `a` (recorded, if a device is there), the bytes at the
addresses of `also` may have changed too, and no other byte of the data space. -/
structure ByteStored (s t : State) (a : DataAddr) (v : Byte) (also : List DataAddr) : Prop where
  stored : dataPlace a ≠ .device → a ∉ also → t.dataByte a = some v
  frame : DataFrame s t (a :: also)
  events : t.events = s.eventsAfterWrite a v
  irqInhibit : t.irqInhibit = s.inhibitAfterWrite a v

/-- The stack pointer after a byte `v` is written where it points: a pointer that points at SPL or SPH is itself changed
by the write (R70, R260). -/
def spAfterStore (sp : Word) (v : Byte) : Word :=
  if sp = Config.splAddr then pairOf (highByte sp) v
  else if sp = Config.sphAddr then pairOf v (lowByte sp)
  else sp

/-- The low byte of a return address (R81). -/
def raLow (ra : ProgAddr) : Byte := lowByte (ra.setWidth 16)

/-- The high byte of a return address, its bits 7 and 6 being 0 (R81, R283). -/
def raHigh (ra : ProgAddr) : Byte := highByte (ra.setWidth 16)

/-- Where the high byte of a return address is pushed: at the stack pointer as the push of the low byte left it, which is
SP - 1 unless SP pointed at SPL or SPH (R12, R81; log entry 9). -/
def State.highPushAt (s : State) (ra : ProgAddr) : DataAddr := spAfterStore s.sp (raLow ra) - 1#16

/-- From `s` to `t` the return address `ra` was pushed: its low byte at SP, then its high byte, SP one lower after each;
no other byte of the data space changed. -/
structure ReturnPushed (s t : State) (ra : ProgAddr) : Prop where
  low : dataPlace s.sp ≠ .device → s.sp ∉ [Config.splAddr, Config.sphAddr] → t.dataByte s.sp = some (raLow ra)
  high : dataPlace (s.highPushAt ra) ≠ .device → s.highPushAt ra ∉ [Config.splAddr, Config.sphAddr] →
    t.dataByte (s.highPushAt ra) = some (raHigh ra)
  sp : t.sp = spAfterStore (s.highPushAt ra) (raHigh ra) - 1#16
  frame : DataFrame s t [s.sp, s.highPushAt ra, Config.splAddr, Config.sphAddr]
  events : t.events = if dataPlace (s.highPushAt ra) = .device
    then .write (s.highPushAt ra) (raHigh ra) :: s.eventsAfterWrite s.sp (raLow ra)
    else s.eventsAfterWrite s.sp (raLow ra)
  irqInhibit : t.irqInhibit = s.inhibitAfterWrite s.sp (raLow ra)

/-- Both pushes of return address `ra` stay inside the data space. -/
def State.canPush (s : State) (ra : ProgAddr) : Prop := s.sp.toNat ≤ 0x08FF ∧ (s.highPushAt ra).toNat ≤ 0x08FF

/-- The state after `Pop()` (R12): SP one higher, and the read of the byte there observed. -/
def State.afterPop (s : State) : State := (s.withSp (s.sp + 1#16)).afterRead (s.sp + 1#16)

/-- The byte `Pop()` gives (R12): what is read at SP + 1 once SP has moved there (log entry 23 for SPL and SPH). -/
def State.poppedByte (s : State) : Byte := (s.withSp (s.sp + 1#16)).readByte (s.sp + 1#16)

/-- The 16-bit value a return takes from the stack by two pops: the high byte, then the low byte (R81, R287). -/
def State.poppedWord (s : State) : Word := pairOf s.poppedByte s.afterPop.poppedByte

/-- The six arithmetic flags of an addition of the bytes `x` and `y` and a carry `cin`, with result
byte `r`, by the arithmetic readings of R171. -/
structure SumFlags (f : Flags) (x y : Byte) (cin : Bool) (r : Byte) : Prop where
  h : f.h = decide (16 ≤ x.toNat % 16 + y.toNat % 16 + cin.toNat)
  v : f.v = decide (x.toInt + y.toInt + cin.toNat < -128 ∨ 127 < x.toInt + y.toInt + cin.toNat)
  n : f.n = decide (r.toInt < 0)
  s : f.s = (f.n ^^ f.v)
  z : f.z = decide (r = 0#8)
  c : f.c = decide (256 ≤ x.toNat + y.toNat + cin.toNat)

/-- The six arithmetic flags of a subtraction of byte `y` and borrow `cin` from byte `x`, with result byte `r`, by the
arithmetic readings of R172; with `chain`, Z is the old Z and-ed with the test of this byte. -/
structure DifferenceFlags (old f : Flags) (x y : Byte) (cin : Bool) (r : Byte) (chain : Bool) : Prop where
  h : f.h = decide (x.toNat % 16 < y.toNat % 16 + cin.toNat)
  v : f.v = decide (x.toInt - y.toInt - cin.toNat < -128 ∨ 127 < x.toInt - y.toInt - cin.toNat)
  n : f.n = decide (r.toInt < 0)
  s : f.s = (f.n ^^ f.v)
  z : f.z = (decide (r = 0#8) && (!chain || old.z))
  c : f.c = decide (x.toNat < y.toNat + cin.toNat)

/-- The outcome is a next state with property `P`. -/
def Completes (o : Host.Outcome State Fault Refusal) (P : State → Prop) : Prop := ∃ t, o = .next t ∧ P t

/-- What every step keeps: both memories are in canonical form and inside their address ranges (R38, R39); interrupts
are inhibited only while I = 1, and never in sleep (R43). -/
structure State.Inv (s : State) : Prop where
  sramRises : Memory.wf s.sram = true
  sramInRange : Memory.within Config.sramStart.toNat (Config.ramEnd.toNat + 1) s.sram = true
  programRises : Memory.wf s.program = true
  programInRange : Memory.within 0 (2 * Config.flashWords) s.program = true
  inhibitedOnlyEnabled : s.irqInhibit = true → s.sreg.getLsbD 7 = true
  asleepNotInhibited : s.asleep = true → s.irqInhibit = false

/-! ## The end of a run (R372) -/

/-- The `EndOfRun` parameter of R372: the addresses of `Reached` and the flag for `SelfLoop`. -/
structure EndOfRun where
  reached : List ProgAddr
  selfLoop : Bool
  deriving DecidableEq, Repr

/-- The four ways a run ends (R372). -/
inductive RunEnd where
  | faulted (r : Fault)
  | asleep
  | reached (a : ProgAddr)
  | selfLoop (a : ProgAddr)
  deriving DecidableEq, Repr

/-- No interrupt can ever be accepted while the CPU sleeps: I = 0, or the source makes no request any more (R372). -/
def State.neverWakes (s : State) : Bool := !s.sreg.getLsbD 7 || s.irqAnswers.all (· == none)

/-- The end a run has come to at an instruction boundary, before the instruction at `pc` is fetched (R372). R372 ranks
no two ends that hold at one boundary; that `Asleep` comes before `Reached`, and `Reached` before `SelfLoop`, is the
model's choice (log entry 14). -/
def State.ended (e : EndOfRun) (s : State) : Option RunEnd :=
  if s.asleep && s.neverWakes then some .asleep
  else if s.pc ∈ e.reached then some (.reached s.pc)
  else
    match e.selfLoop, programWord s.pc s with
    | true, .next w => if w = 0xCFFF#16 then some (.selfLoop s.pc) else none
    | _, _ => none

/-- What a run of at most `n` steps comes to. -/
inductive RunResult where
  | ended (e : RunEnd) (s : State)
  | refused (r : Refusal) (s : State)
  | running (s : State)
  deriving DecidableEq, Repr

/-- Run until the first end of R372, a refusal, or `n` steps; a faulting step leaves the state as it was (R322). -/
def runTo (e : EndOfRun) : Nat → State → RunResult
  | 0, s => match s.ended e with | some r => .ended r s | none => .running s
  | n + 1, s =>
    match s.ended e with
    | some r => .ended r s
    | none =>
      match step s with
      | .next t => runTo e n t
      | .fault r => .ended (.faulted r) s
      | .refused r => .refused r s

end Sys2Proof.Machine
end

