-- ==== Sys2Proof/Certificates/Slice0/Obligations.lean ====
section
/-! DEFINITION. The statements about the model, one `def … : Prop` each; OBLIGATIONS.json lists them. The terms they use
that are not the machine's own (`RegFrame`, `DataFrame`, `ByteStored`, `ReturnPushed`, `SumFlags`, `DifferenceFlags`,
`Completes`, `State.Inv`) are in Sys2Proof/Safety.lean. -/

section

open Sys2Proof Sys2Proof.Machine

/-! ## Encoding -/

/-- Words of the spec's examples and listings decode as its rules say: one or more of every family of R104. -/
def Obligations.DecodeReadsTheListedWords : Prop :=
  decodeWords 0x9500#16 0#16 = .ok (.com 16#5) ∧ decodeWords 0xF911#16 0#16 = .ok (.bld 17#5 1#3) ∧
  decodeWords 0x1DF1#16 0#16 = .ok (.adc 31#5 1#5) ∧ decodeWords 0x178A#16 0#16 = .ok (.cp 24#5 26#5) ∧
  decodeWords 0x9F01#16 0#16 = .ok (.mul 16#5 17#5) ∧ decodeWords 0x03FE#16 0#16 = .ok (.fmulsu 23#5 22#5) ∧
  decodeWords 0xB50D#16 0#16 = .ok (.inp 16#5 0x2D#6) ∧ decodeWords 0x9A5D#16 0#16 = .ok (.sbi 0x0B#5 5#3) ∧
  decodeWords 0x9478#16 0#16 = .ok (.bset 7#3) ∧
  decodeWords 0x9180#16 0x0103#16 = .ok (.lds 24#5 0x0103#16) ∧ decodeWords 0xE7E0#16 0#16 = .ok (.ldi 30#5 0x70#8) ∧
  decodeWords 0x96FF#16 0#16 = .ok (.adiw 30#5 63#6) ∧
  decodeWords 0xAD8F#16 0#16 = .ok (.lddY 24#5 63#6) ∧ decodeWords 0x93E2#16 0#16 = .ok (.stZDec 30#5) ∧
  decodeWords 0x934F#16 0#16 = .ok (.push 20#5) ∧
  decodeWords 0x9084#16 0#16 = .ok (.lpmZ 8#5) ∧ decodeWords 0x95C8#16 0#16 = .ok .lpm ∧
  decodeWords 0x940D#16 0x0000#16 = .ok (.jmp 0x10000#22) ∧ decodeWords 0xC001#16 0#16 = .ok (.rjmp 1#12) ∧
  decodeWords 0xF7EE#16 0#16 = .ok (.brbc 6#3 0x7D#7) ∧ decodeWords 0x9588#16 0#16 = .ok .sleep

/-- No first word agrees with the fixed bits of two rows of the opcode table (R136). -/
def Obligations.NoFirstWordMatchesTwoRows : Prop :=
  ∀ (w : Word) (m n : Nat) (hm : m < opcodeTable.length) (hn : n < opcodeTable.length),
    (opcodeTable[m]).accepts w = true → (opcodeTable[n]).accepts w = true → m = n

/-- Decoding the bytes of any well-formed instruction, whatever bytes follow them, gives that instruction and leaves the
bytes that follow. -/
def Obligations.DecodeOfEncodeIsTheInstruction : Prop :=
  ∀ (i : Instr) (rest : List Byte), i.wf = true → decodeBytes (encodeBytes i ++ rest) = .ok (i, rest)

/-- Whatever a first and a second word decode to is well formed, and its encoding is those words: the first one alone, or
both when the first word gives the length 2. No bit of either is dropped. -/
def Obligations.EncodeOfDecodeIsTheWords : Prop :=
  ∀ (w w2 : Word) (i : Instr), decodeWords w w2 = .ok i →
    i.wf = true ∧ encode i = if ilen w = 2 then [w, w2] else [w]

/-- An instruction is one word or two, and the four with a second word are `lds`, `sts`, `jmp` and `call` (R100): the
first word alone tells, two words exactly when it matches `1001 00xx xxxx 0000` or `1001 010x xxxx 11xx`, one word
otherwise, reserved words included (the patterns and the masks, R101 and R102, are the spec's own derivation from the
encodings of these four). -/
def Obligations.LengthComesFromTheFirstWord : Prop :=
  ∀ w : Word,
    (ilen w = 2 ↔ (w.extractLsb' 10 6 = 0b100100#6 ∧ w.extractLsb' 0 4 = 0b0000#4) ∨
      (w.extractLsb' 9 7 = 0b1001010#7 ∧ w.extractLsb' 2 2 = 0b11#2)) ∧
    (ilen w = 2 ∨ ilen w = 1) ∧
    ilen w = (if w &&& 0xFC0F#16 = 0x9000#16 then 2 else if w &&& 0xFE0C#16 = 0x940C#16 then 2 else 1) ∧
    (∀ w2 : Word, ilen w = 2 ↔
      (∃ d, decodeWords w w2 = .ok (.lds d w2)) ∨ (∃ r, decodeWords w w2 = .ok (.sts w2 r)) ∨
      (∃ k, decodeWords w w2 = .ok (.jmp k)) ∨ (∃ k, decodeWords w w2 = .ok (.call k)))

/-- The decoder rejects a first word exactly when it is in one of the eight patterns that R130 lists, and executing such
a word faults `IllegalOpcode` with `pc` and the word recorded, whatever follows it in program memory. (The spec's own
decision D3, log entry 4.) -/
def Obligations.ReservedFirstWordsFaultIllegalOpcode : Prop :=
  (∀ w w2 : Word, decodeWords w w2 = .error (.reserved w) ↔
    (w.extractLsb' 8 8 = 0x00#8 ∧ w ≠ 0x0000#16) ∨
    (w.extractLsb' 9 7 = 0b1001000#7 ∧ w.extractLsb' 0 4 ∈ [0b0011#4, 0b0110#4, 0b0111#4, 0b1000#4, 0b1011#4]) ∨
    (w.extractLsb' 9 7 = 0b1001001#7 ∧
      w.extractLsb' 0 4 ∈ [0b0011#4, 0b0100#4, 0b0101#4, 0b0110#4, 0b0111#4, 0b1000#4, 0b1011#4]) ∨
    (w.extractLsb' 9 7 = 0b1001010#7 ∧ w.extractLsb' 0 4 = 0b0100#4) ∨
    (w.extractLsb' 9 7 = 0b1001010#7 ∧ w.extractLsb' 0 4 = 0b1001#4 ∧
      w ∉ [0x9409#16, 0x9419#16, 0x9509#16, 0x9519#16]) ∨
    (w.extractLsb' 8 8 = 0x95#8 ∧ w.extractLsb' 0 4 = 0b1000#4 ∧
      w ∉ [0x9508#16, 0x9518#16, 0x9588#16, 0x9598#16, 0x95A8#16, 0x95C8#16]) ∨
    (w.extractLsb' 8 8 = 0x95#8 ∧ w.extractLsb' 0 4 = 0b1011#4) ∨
    (w.extractLsb' 11 5 = 0b11111#5 ∧ w.extractLsb' 3 1 = 1#1)) ∧
  (∀ (s : State) (w : Word), s.asleep = false → (acceptanceTest s).1 = none → programWord s.pc s = .next w →
    decodeWords w 0#16 = .error (.reserved w) → step s = .fault (.illegalOpcode s.pc w))

/-- Formats RB (R107) and IOB (R121), field by field: a register or I/O address and a bit number, with two bits that tell
the four instructions of each apart; with bit 3 set a word of format RB is reserved. The words that the two rules check
are given too. -/
def Obligations.BitNumberFormatsAreReadAsDrawn : Prop :=
  ∀ (d a : BitVec 5) (b : BitVec 3) (n : BitVec 2) (w2 : Word),
    decodeWords (0b11111#5 ++ 0b00#2 ++ d ++ 0#1 ++ b) w2 = .ok (.bld d b) ∧
    decodeWords (0b11111#5 ++ 0b01#2 ++ d ++ 0#1 ++ b) w2 = .ok (.bst d b) ∧
    decodeWords (0b11111#5 ++ 0b10#2 ++ d ++ 0#1 ++ b) w2 = .ok (.sbrc d b) ∧
    decodeWords (0b11111#5 ++ 0b11#2 ++ d ++ 0#1 ++ b) w2 = .ok (.sbrs d b) ∧
    decodeWords (0b11111#5 ++ n ++ d ++ 1#1 ++ b) w2 = .error (.reserved (0b11111#5 ++ n ++ d ++ 1#1 ++ b)) ∧
    decodeWords (0b100110#6 ++ 0b00#2 ++ a ++ b) w2 = .ok (.cbi a b) ∧
    decodeWords (0b100110#6 ++ 0b01#2 ++ a ++ b) w2 = .ok (.sbic a b) ∧
    decodeWords (0b100110#6 ++ 0b10#2 ++ a ++ b) w2 = .ok (.sbi a b) ∧
    decodeWords (0b100110#6 ++ 0b11#2 ++ a ++ b) w2 = .ok (.sbis a b) ∧
    decodeWords 0xFB00#16 w2 = .ok (.bst 16#5 0#3) ∧ decodeWords 0xF911#16 w2 = .ok (.bld 17#5 1#3) ∧
    decodeWords 0xFB07#16 w2 = .ok (.bst 16#5 7#3) ∧
    decodeWords 0x9A5D#16 w2 = .ok (.sbi 0x0B#5 5#3) ∧ decodeWords 0x985D#16 w2 = .ok (.cbi 0x0B#5 5#3)

/-- Formats DS (R123) and I8 (R124), field by field: `lds` and `sts` with the data address as second word, and the six
instructions with an 8-bit constant, whose high half is bits 11 to 8 and whose low half is bits 3 to 0, on register 16
plus the field. -/
def Obligations.DirectAndImmediateFormatsAreReadAsDrawn : Prop :=
  (∀ (d : BitVec 5) (k : Word),
    decodeWords (0b100100#6 ++ 0#1 ++ d ++ 0b0000#4) k = .ok (.lds d k) ∧
    decodeWords (0b100100#6 ++ 1#1 ++ d ++ 0b0000#4) k = .ok (.sts k d) ∧
    encode (.lds d k) = [0b100100#6 ++ 0#1 ++ d ++ 0b0000#4, k] ∧
    encode (.sts k d) = [0b100100#6 ++ 1#1 ++ d ++ 0b0000#4, k]) ∧
  ∀ (high d low : BitVec 4) (w2 : Word),
    decodeWords (0b1110#4 ++ high ++ d ++ low) w2 = .ok (.ldi (1#1 ++ d) (high ++ low)) ∧
    decodeWords (0b0011#4 ++ high ++ d ++ low) w2 = .ok (.cpi (1#1 ++ d) (high ++ low)) ∧
    decodeWords (0b0100#4 ++ high ++ d ++ low) w2 = .ok (.sbci (1#1 ++ d) (high ++ low)) ∧
    decodeWords (0b0101#4 ++ high ++ d ++ low) w2 = .ok (.subi (1#1 ++ d) (high ++ low)) ∧
    decodeWords (0b0110#4 ++ high ++ d ++ low) w2 = .ok (.ori (1#1 ++ d) (high ++ low)) ∧
    decodeWords (0b0111#4 ++ high ++ d ++ low) w2 = .ok (.andi (1#1 ++ d) (high ++ low))

/-- Formats R4 (R109) and R3 (R111), field by field: `movw` on two register pairs, each named by half its low register;
`muls` on registers 16 plus the field; the four multiplies with 3-bit fields on registers 16 plus the field, told apart
by bits 7 and 3. -/
def Obligations.ShortRegisterFormatsAreReadAsDrawn : Prop :=
  (∀ (d r : BitVec 4) (w2 : Word),
    decodeWords (0b00000001#8 ++ d ++ r) w2 = .ok (.movw (d ++ 0#1) (r ++ 0#1)) ∧
    decodeWords (0b00000010#8 ++ d ++ r) w2 = .ok (.muls (1#1 ++ d) (1#1 ++ r))) ∧
  ∀ (d r : BitVec 3) (w2 : Word),
    decodeWords (0b00000011#8 ++ 0#1 ++ d ++ 0#1 ++ r) w2 = .ok (.mulsu (0b10#2 ++ d) (0b10#2 ++ r)) ∧
    decodeWords (0b00000011#8 ++ 0#1 ++ d ++ 1#1 ++ r) w2 = .ok (.fmul (0b10#2 ++ d) (0b10#2 ++ r)) ∧
    decodeWords (0b00000011#8 ++ 1#1 ++ d ++ 0#1 ++ r) w2 = .ok (.fmuls (0b10#2 ++ d) (0b10#2 ++ r)) ∧
    decodeWords (0b00000011#8 ++ 1#1 ++ d ++ 1#1 ++ r) w2 = .ok (.fmulsu (0b10#2 ++ d) (0b10#2 ++ r))

/-! ## One step -/

/-- A step runs the decoded instruction. When the bytes `bs` at the program counter decode to the instruction `i` and to
nothing more, the CPU is awake and no interrupt is accepted, the step is `exec i` on the state in which `irqInhibit` is
cleared (R43) and the interrupt source, if it was polled, has given its answer (R327). (The clearing of `irqInhibit`
before the instruction runs is log entry 8, the answers of the source log entry 5.) -/
def Obligations.StepRunsTheDecodedInstruction : Prop :=
  ∀ (s : State) (i : Instr) (bs : List Byte),
    decodeBytes bs = .ok (i, []) →
    (∀ (n : Nat) (h : n < bs.length), Memory.byteAt s.program ((2 * s.pc.toNat + n) % 0x8000) = some bs[n]) →
    s.asleep = false → (acceptanceTest s).1 = none →
    step s = exec i { s with
      irqInhibit := false
      irqAnswers := if s.sreg.getLsbD 7 = true ∧ s.irqInhibit = false then s.irqAnswers.tail else s.irqAnswers }

/-- An accepted interrupt is entered in place of the fetch: the request is acknowledged, the address of the next
instruction is pushed (low byte at the higher address), I and `asleep` are cleared, every other flag and every general
register is kept unless the stack lies on it, and `pc` is the vector's address. Nothing is read from program memory. (The
spec's own decision D11 from general knowledge, log entry 4; where SP points at SPL or SPH the pushes are the model's
reading, log entry 9; the source of requests is the model's field, log entry 5; that the devices observe the
acknowledgement, as an event of their history, is the model's choice, log entry 6.) -/
def Obligations.StepEntersAnAcceptedInterrupt : Prop :=
  ∀ (s : State) (v : IrqVector) (rest : List (Option IrqVector)),
    s.sreg.getLsbD 7 = true → s.irqInhibit = false → s.irqAnswers = some v :: rest → s.canPush s.pc →
    Completes (step s) fun t => ∃ u : State,
      ReturnPushed { s with irqAnswers := rest, events := .irqAck v :: s.events } u s.pc ∧
      t.pc.toNat = 2 * (IrqVector.number v - 1) ∧ t.sreg.getLsbD 7 = false ∧ t.asleep = false ∧
      RegFrame { u with asleep := false } t [] 0x80#8

/-- The 25 interrupt vectors are numbered 2 to 26, each by one source, and vector `v` is entered at word `2 * (v - 1)`:
the 25 addresses are the even ones from 0x0002 to 0x0032. (The spec's general knowledge, log entry 4.) -/
def Obligations.VectorsStandTwoWordsApart : Prop :=
  (∀ v : IrqVector, 2 ≤ IrqVector.number v ∧ IrqVector.number v ≤ 26 ∧
    (vectorAddr v).toNat = 2 * (IrqVector.number v - 1)) ∧
  (∀ v v' : IrqVector, IrqVector.number v = IrqVector.number v' → v = v') ∧
  (∀ n, 2 ≤ n → n ≤ 26 → ∃ v : IrqVector, IrqVector.number v = n)

/-- While the CPU sleeps and no interrupt is accepted, a step executes nothing: only the interrupt source, if it was
polled, has given its answer. (The spec's own decision D12, log entry 4; that such a step is a step is the model's, log
entry 7.) -/
def Obligations.ASleepingCpuExecutesNothing : Prop :=
  ∀ s : State, s.asleep = true → (acceptanceTest s).1 = none →
    step s = .next { s with
      irqAnswers := if s.sreg.getLsbD 7 = true ∧ s.irqInhibit = false then s.irqAnswers.tail else s.irqAnswers }

/-! ## Invariants and whole-machine rules -/

/-- Every step that has a next state keeps the invariant `State.Inv`: both memories in canonical form and inside their
address ranges, interrupts inhibited only while I = 1 and never in sleep. (The canonical form is the model's, log
entries 2 and 11; the clauses on interrupts rest on the spec's own decisions D11, D12 and D30, log entry 4.) -/
def Obligations.StepKeepsTheInvariant : Prop := ∀ s t : State, s.Inv → step s = .next t → t.Inv

/-- The state after reset meets the invariant. -/
def Obligations.ResetMeetsTheInvariant : Prop := State.reset.Inv

/-- What the spec's tables give for reset: `pc`, SREG and SP, the two model bits clear. (The spec marks these values as
its own decision D10, log entry 4. That reset has no program, so that the first step is refused, is the model's choice,
log entry 11.) -/
def Obligations.ResetLeavesTheStatedValues : Prop :=
  State.reset.pc = 0x0000#14 ∧ State.reset.sreg = 0x00#8 ∧ State.reset.sp = 0x08FF#16 ∧
  State.reset.irqInhibit = false ∧ State.reset.asleep = false ∧ step State.reset = .refused (.programUndefined 0)

/-- Program memory is a constant of the run: no step changes it, so no later fetch or `lpm` can read another word. (The
spec's own decision D17, log entry 4.) -/
def Obligations.NoStepChangesProgramMemory : Prop :=
  ∀ s t : State, step s = .next t → t.program = s.program ∧ ∀ a, programWord a t = programWord a s

/-- Only `sleep` puts the CPU to sleep, and only an accepted interrupt wakes it. (The spec's own decision D12, log
entry 4.) -/
def Obligations.OnlySleepSleepsAndOnlyAnInterruptWakes : Prop :=
  ∀ s t : State, step s = .next t →
    (s.asleep = false → t.asleep = true → fetch (acceptanceTest s).2 = .next .sleep) ∧
    (s.asleep = true → t.asleep = false → ∃ v, (acceptanceTest s).1 = some v)

/-- Timing around I (R328; the spec's own decision D30, log entry 4). After an executed instruction: (a) if it changed I
from 0 to 1, no interrupt is accepted before the next instruction has executed; (b) if it left I at 0, none is accepted;
(c) if I was 1 and still is, the instruction does not inhibit and the source is polled at once. -/
def Obligations.EnablingInterruptsWaitsOneInstruction : Prop :=
  ∀ s t : State, s.asleep = false → (acceptanceTest s).1 = none → step s = .next t →
    (s.sreg.getLsbD 7 = false → t.sreg.getLsbD 7 = true → t.irqInhibit = true ∧ acceptanceTest t = (none, t)) ∧
    (t.sreg.getLsbD 7 = false → t.irqInhibit = false ∧ acceptanceTest t = (none, t)) ∧
    (s.sreg.getLsbD 7 = true → t.sreg.getLsbD 7 = true → t.irqInhibit = false ∧ acceptanceTest t = t.poll)

/-! ## The data space -/

/-- The dispatch of a data access by address (R70; the spec's own decisions D6 and D18, log entry 4), every clause: what
a read of address `a` gives and what a write of `v` to it does. What a device answers is the free value of log entry 3.
-/
def Obligations.DataAccessesFollowTheAddressMap : Prop :=
  ∀ (a : DataAddr) (v : Byte) (s : State),
    if h : a.toNat ≤ 0x001F then
      memRead a s = .next (s.regs[a.toNat]'(Nat.lt_succ_of_le h), s) ∧
      memWrite a v s = .next { s with regs := s.regs.set a.toNat v (Nat.lt_succ_of_le h) }
    else if a.toNat = 0x005D then
      memRead a s = .next (s.sp.extractLsb' 0 8, s) ∧
      memWrite a v s = .next { s with sp := s.sp.extractLsb' 8 8 ++ v }
    else if a.toNat = 0x005E then
      memRead a s = .next (s.sp.extractLsb' 8 8, s) ∧
      memWrite a v s = .next { s with sp := v ++ s.sp.extractLsb' 0 8 }
    else if a.toNat = 0x005F then
      memRead a s = .next (s.sreg, s) ∧
      memWrite a v s = .next { s with
        sreg := v
        irqInhibit := if s.sreg.getLsbD 7 = false ∧ v.getLsbD 7 = true then true else s.irqInhibit }
    else if a.toNat ≤ 0x00FF then
      memRead a s = .next (Config.deviceRead s.events a, { s with events := .read a :: s.events }) ∧
      memWrite a v s = .next { s with events := .write a v :: s.events }
    else if a.toNat ≤ 0x08FF then
      memRead a s = .next (s.sramByte a.toNat, s) ∧
      (∃ t, memWrite a v s = .next t ∧ t.sramByte a.toNat = v ∧
        (∀ b, b ≠ a.toNat → t.sramByte b = s.sramByte b) ∧ { t with sram := s.sram } = s)
    else
      memRead a s = .fault (.dataAddressOutOfRange s.pc a .read) ∧
      memWrite a v s = .fault (.dataAddressOutOfRange s.pc a .write)

/-- A read of a register, SREG, SPL, SPH or SRAM gives the last value written there, however often it is read, and a
write leaves every other such byte as it was. (The registers' place in the data space is the spec's own decision D18,
log entry 4.) -/
def Obligations.AReadGivesTheLastValueWritten : Prop :=
  ∀ (a b : DataAddr) (v : Byte) (s t : State), memWrite a v s = .next t → dataPlace a ≠ .device →
    memRead a t = .next (v, t) ∧ (b ≠ a → t.dataByte b = s.dataByte b) ∧ t.events = s.events

/-- Every load, store, push and pop above data address 0x08FF faults `DataAddressOutOfRange` with `pc`, the address and
the kind of access, and so never has a next state there. (The spec's own decision D6, log entry 4.) -/
def Obligations.AddressesAboveRamendFault : Prop :=
  ∀ (s : State) (d : Reg) (q : BitVec 6) (k : BitVec 16),
    (0x08FF < k.toNat → exec (.lds d k) s = .fault (.dataAddressOutOfRange s.pc k .read) ∧
      exec (.sts k d) s = .fault (.dataAddressOutOfRange s.pc k .write)) ∧
    (∀ p (ld st : Instr), (p, ld, st) ∈ [(Pointer.z, .lddZ d q, .stdZ q d), (Pointer.y, .lddY d q, .stdY q d)] →
      0x08FF < (s.pointer p + q.setWidth 16).toNat →
      exec ld s = .fault (.dataAddressOutOfRange s.pc (s.pointer p + q.setWidth 16) .read) ∧
      exec st s = .fault (.dataAddressOutOfRange s.pc (s.pointer p + q.setWidth 16) .write)) ∧
    (0x08FF < (s.pointer .x).toNat →
      exec (.ldX d) s = .fault (.dataAddressOutOfRange s.pc (s.pointer .x) .read) ∧
      exec (.stX d) s = .fault (.dataAddressOutOfRange s.pc (s.pointer .x) .write)) ∧
    (∀ u p (ld st : Instr), (u, p, ld, st) ∈
        [(Update.postIncrement, Pointer.x, .ldXInc d, .stXInc d), (.preDecrement, .x, .ldXDec d, .stXDec d),
         (.postIncrement, .y, .ldYInc d, .stYInc d), (.preDecrement, .y, .ldYDec d, .stYDec d),
         (.postIncrement, .z, .ldZInc d, .stZInc d), (.preDecrement, .z, .ldZDec d, .stZDec d)] →
      p.owns d = false → 0x08FF < (updateAddr u p s).toNat →
      exec ld s = .fault (.dataAddressOutOfRange s.pc (updateAddr u p s) .read) ∧
      exec st s = .fault (.dataAddressOutOfRange s.pc (updateAddr u p s) .write)) ∧
    (0x08FF < s.sp.toNat → exec (.push d) s = .fault (.dataAddressOutOfRange s.pc s.sp .write)) ∧
    (0x08FF < (s.sp + 1#16).toNat → exec (.pop d) s = .fault (.dataAddressOutOfRange s.pc (s.sp + 1#16) .read))

/-- The 24 first words whose data register is one of the two registers of the pointer they update fault
`UndefinedOperandCombination` in every state, with `pc` and the word; the plain and displacement forms never do. (The
spec's own decision D19, log entry 4.) -/
def Obligations.UndefinedPointerCombinationsFault : Prop :=
  ∀ (s : State) (d : Reg),
    (∀ (p : Pointer) (i : Instr), (p, i) ∈
        [(Pointer.x, .ldXInc d), (.x, .ldXDec d), (.x, .stXInc d), (.x, .stXDec d),
         (.y, .ldYInc d), (.y, .ldYDec d), (.y, .stYInc d), (.y, .stYDec d),
         (.z, .ldZInc d), (.z, .ldZDec d), (.z, .stZInc d), (.z, .stZDec d)] →
      (exec i s = .fault (.undefinedOperandCombination s.pc (firstWord i)) ↔
        d ∈ (match p with
          | .x => [26#5, 27#5]
          | .y => [28#5, 29#5]
          | .z => [30#5, 31#5]))) ∧
    (∀ (q : BitVec 6) (i : Instr), i ∈ [.ldX d, .lddY d q, .lddZ d q, .stX d, .stdY q d, .stdZ q d] →
      ∀ a w, exec i s ≠ .fault (.undefinedOperandCombination a w))

/-! ## Registers and flags

Appendix A of the source lists which flags an instruction affects; their equations are the spec's own, from general
knowledge (G1 to G8, log entry 4), and the statements about flags below rest on them. -/

/-- `add` and `adc` complete in every state: the sum modulo 256, the six flags of R171 by their arithmetic readings (the
spec's general knowledge, log entry 4), nothing else. -/
def Obligations.AddAndAdcAreSumsWithSixFlags : Prop :=
  ∀ (s : State) (d r : Reg) (i : Instr) (cin : Bool),
    (i, cin) ∈ [(Instr.add d r, false), (.adc d r, s.flags.c)] →
    Completes (exec i s) fun t =>
      (t.reg d).toNat = ((s.reg d).toNat + (s.reg r).toNat + cin.toNat) % 256 ∧
      SumFlags t.flags (s.reg d) (s.reg r) cin (t.reg d) ∧ t.pc = s.pc + 1#14 ∧ RegFrame s t [d] 0x3F#8

/-- `sub`, `sbc`, `subi` and `sbci` complete in every state: the difference modulo 256, the six flags of R172 by their
arithmetic readings (the spec's general knowledge, log entry 4), Z chained for `sbc` and `sbci`, nothing else. -/
def Obligations.SubtractsAreDifferencesWithSixFlags : Prop :=
  ∀ (s : State) (d r : Reg) (k : Byte) (i : Instr) (y : Byte) (cin chain : Bool),
    (i, y, cin, chain) ∈ [(Instr.sub d r, s.reg r, false, false), (.sbc d r, s.reg r, s.flags.c, true),
      (.subi d k, k, false, false), (.sbci d k, k, s.flags.c, true)] →
    Completes (exec i s) fun t =>
      ((t.reg d).toNat : Int) = ((s.reg d).toNat - y.toNat - cin.toNat : Int) % 256 ∧
      DifferenceFlags s.flags t.flags (s.reg d) y cin (t.reg d) chain ∧ t.pc = s.pc + 1#14 ∧ RegFrame s t [d] 0x3F#8

/-- `cp`, `cpc` and `cpi` complete in every state: the flags of the subtraction, no register written, nothing else. (The
flag equations are the spec's general knowledge and, for S, its own decision D20, log entry 4.) -/
def Obligations.ComparesSetTheFlagsOfTheDifference : Prop :=
  ∀ (s : State) (d r : Reg) (k : Byte) (i : Instr) (y : Byte) (cin chain : Bool),
    (i, y, cin, chain) ∈ [(Instr.cp d r, s.reg r, false, false), (.cpc d r, s.reg r, s.flags.c, true),
      (.cpi d k, k, false, false)] →
    Completes (exec i s) fun t =>
      DifferenceFlags s.flags t.flags (s.reg d) y cin (s.reg d - y - BitVec.ofNat 8 cin.toNat) chain ∧
      t.pc = s.pc + 1#14 ∧ RegFrame s t [] 0x3F#8

/-- After `cp Rd,Rr` the branch aliases say what their names say: `breq`/`brne` equal or not, `brlo`/`brsh` unsigned
lower or not, `brlt`/`brge` signed less or not. The branch is taken to its target exactly then, else it goes on. (The
flag equations are the spec's general knowledge and, for S, its own decision D20, log entry 4.) -/
def Obligations.BranchesAfterACompareOrderTheOperands : Prop :=
  ∀ (s t : State) (d r : Reg) (k : BitVec 7), exec (.cp d r) s = .next t →
    let taken := t.pc + 1#14 + k.signExtend 14
    let goOn := t.pc + 1#14
    exec (.brbs 1#3 k) t = .next (t.withPc (if s.reg d = s.reg r then taken else goOn)) ∧
    exec (.brbc 1#3 k) t = .next (t.withPc (if s.reg d ≠ s.reg r then taken else goOn)) ∧
    exec (.brbs 0#3 k) t = .next (t.withPc (if (s.reg d).toNat < (s.reg r).toNat then taken else goOn)) ∧
    exec (.brbc 0#3 k) t = .next (t.withPc (if (s.reg r).toNat ≤ (s.reg d).toNat then taken else goOn)) ∧
    exec (.brbs 4#3 k) t = .next (t.withPc (if (s.reg d).toInt < (s.reg r).toInt then taken else goOn)) ∧
    exec (.brbc 4#3 k) t = .next (t.withPc (if (s.reg r).toInt ≤ (s.reg d).toInt then taken else goOn))

/-- A 16-bit compare, `cp` of the low bytes and then `cpc` of the high bytes, leaves Z = 1 exactly when the two 16-bit
numbers are equal, C = 1 exactly when the first is the lower unsigned, and S = 1 exactly when it is the lower signed.
(The flag equations are the spec's general knowledge and, for S, its own decision D20, log entry 4.) -/
def Obligations.CpThenCpcComparesSixteenBits : Prop :=
  ∀ (s t u : State) (dl rl dh rh : Reg), exec (.cp dl rl) s = .next t → exec (.cpc dh rh) t = .next u →
    let x : Word := s.reg dh ++ s.reg dl
    let y : Word := s.reg rh ++ s.reg rl
    u.flags.z = decide (x = y) ∧ u.flags.c = decide (x.toNat < y.toNat) ∧ u.flags.s = decide (x.toInt < y.toInt)

/-- `and`, `andi`, `or`, `ori` and `eor` complete in every state: the bitwise result, V = 0, N its bit 7, S = N, Z
whether it is zero; C, H and all else kept. (The flag equations are the spec's general knowledge and, for S, its own
decision D20, log entry 4.) -/
def Obligations.LogicResultsAndTheirFlags : Prop :=
  ∀ (s : State) (d r : Reg) (k : Byte) (i : Instr) (v : Byte),
    (i, v) ∈ [(Instr.and d r, s.reg d &&& s.reg r), (.andi d k, s.reg d &&& k), (.or d r, s.reg d ||| s.reg r),
      (.ori d k, s.reg d ||| k), (.eor d r, s.reg d ^^^ s.reg r)] →
    Completes (exec i s) fun t =>
      t.reg d = v ∧ t.flags.v = false ∧ t.flags.n = v.getLsbD 7 ∧ t.flags.s = v.getLsbD 7 ∧
      t.flags.z = decide (v = 0#8) ∧ t.pc = s.pc + 1#14 ∧ RegFrame s t [d] 0x1E#8

/-- `com`, `neg`, `inc` and `dec` complete in every state: 255 minus the operand with V = 0 and C = 1; 0 minus the
operand with the flags of that subtraction; one more and one less modulo 256, V when the signed result does not fit, C
and H kept. (The flag equations are the spec's general knowledge and, for S, its own decision D20, log entry 4.) -/
def Obligations.ComplementsIncAndDecWithTheirFlags : Prop :=
  ∀ (s : State) (d : Reg),
    Completes (exec (.com d) s) (fun t =>
      (t.reg d).toNat = 255 - (s.reg d).toNat ∧ t.flags.n = (t.reg d).getLsbD 7 ∧ t.flags.v = false ∧
      t.flags.s = (t.flags.n ^^ t.flags.v) ∧ t.flags.z = decide (t.reg d = 0#8) ∧ t.flags.c = true ∧
      t.pc = s.pc + 1#14 ∧ RegFrame s t [d] 0x1F#8) ∧
    Completes (exec (.neg d) s) (fun t =>
      (t.reg d).toNat = (256 - (s.reg d).toNat) % 256 ∧
      t.flags.h = ((t.reg d).getLsbD 3 || (s.reg d).getLsbD 3) ∧ t.flags.v = decide (s.reg d = 0x80#8) ∧
      DifferenceFlags s.flags t.flags 0#8 (s.reg d) false (t.reg d) false ∧
      t.pc = s.pc + 1#14 ∧ RegFrame s t [d] 0x3F#8) ∧
    Completes (exec (.inc d) s) (fun t =>
      (t.reg d).toNat = ((s.reg d).toNat + 1) % 256 ∧ t.flags.v = decide (127 < (s.reg d).toInt + 1) ∧
      t.flags.n = (t.reg d).getLsbD 7 ∧ t.flags.s = (t.flags.n ^^ t.flags.v) ∧ t.flags.z = decide (t.reg d = 0#8) ∧
      t.pc = s.pc + 1#14 ∧ RegFrame s t [d] 0x1E#8) ∧
    Completes (exec (.dec d) s) (fun t =>
      (t.reg d).toNat = ((s.reg d).toNat + 255) % 256 ∧ t.flags.v = decide ((s.reg d).toInt - 1 < -128) ∧
      t.flags.n = (t.reg d).getLsbD 7 ∧ t.flags.s = (t.flags.n ^^ t.flags.v) ∧ t.flags.z = decide (t.reg d = 0#8) ∧
      t.pc = s.pc + 1#14 ∧ RegFrame s t [d] 0x1E#8)

/-- `asr`, `lsr` and `ror` complete in every state: halves rounded down of the signed number, of the unsigned number,
and of the nine-bit number that C and the operand make; C is the bit that left, V = N ^ C, S = N ^ V; H kept. (The flag
equations are the spec's general knowledge and, for S, its own decision D20, log entry 4.) -/
def Obligations.ShiftsHalveIntoTheCarry : Prop :=
  ∀ (s : State) (d : Reg) (i : Instr) (value : Byte → Prop),
    (i = .asr d ∧ value = (fun r => r.toInt = (s.reg d).toInt / 2)) ∨
    (i = .lsr d ∧ value = (fun r => r.toNat = (s.reg d).toNat / 2)) ∨
    (i = .ror d ∧ value = (fun r => r.toNat = (256 * s.flags.c.toNat + (s.reg d).toNat) / 2)) →
    Completes (exec i s) fun t =>
      value (t.reg d) ∧ t.flags.c = decide ((s.reg d).toNat % 2 = 1) ∧ t.flags.n = (t.reg d).getLsbD 7 ∧
      t.flags.v = (t.flags.n ^^ t.flags.c) ∧ t.flags.s = (t.flags.n ^^ t.flags.v) ∧
      t.flags.z = decide (t.reg d = 0#8) ∧ t.pc = s.pc + 1#14 ∧ RegFrame s t [d] 0x1F#8

/-- Nine applications of `ror Rd` restore the register and the carry. (The flag equations are the spec's general
knowledge, log entry 4.) -/
def Obligations.NineRotationsRestoreTheRegister : Prop :=
  ∀ (s0 s1 s2 s3 s4 s5 s6 s7 s8 s9 : State) (d : Reg),
    exec (.ror d) s0 = .next s1 → exec (.ror d) s1 = .next s2 → exec (.ror d) s2 = .next s3 →
    exec (.ror d) s3 = .next s4 → exec (.ror d) s4 = .next s5 → exec (.ror d) s5 = .next s6 →
    exec (.ror d) s6 = .next s7 → exec (.ror d) s7 = .next s8 → exec (.ror d) s8 = .next s9 →
    s9.reg d = s0.reg d ∧ s9.flags.c = s0.flags.c ∧ s9.pc = s0.pc + 9#14

/-- `mov`, `movw`, `ldi` and `swap` complete in every state and write no flag: the source byte, both bytes of the source
pair, the constant, the nibbles exchanged (`swap` on the spec's general knowledge, log entry 4); with the words that
encode `mov` (R184) and `ldi` (R224); `movw` is R185, `swap` R153. -/
def Obligations.CopiesWriteTheirRegisterAlone : Prop :=
  ∀ (s : State) (d r : Reg) (k : Byte),
    encode (.mov d r) = [0b001011#6 ++ r.extractLsb' 4 1 ++ d ++ r.extractLsb' 0 4] ∧
    encode (.ldi d k) = [0b1110#4 ++ k.extractLsb' 4 4 ++ d.extractLsb' 0 4 ++ k.extractLsb' 0 4] ∧
    Completes (exec (.mov d r) s) (fun t => t.reg d = s.reg r ∧ t.pc = s.pc + 1#14 ∧ RegFrame s t [d] 0#8) ∧
    Completes (exec (.movw d r) s) (fun t => t.reg d = s.reg r ∧ t.reg (d + 1#5) = s.reg (r + 1#5) ∧
      t.pc = s.pc + 1#14 ∧ RegFrame s t [d, d + 1#5] 0#8) ∧
    Completes (exec (.ldi d k) s) (fun t => t.reg d = k ∧ t.pc = s.pc + 1#14 ∧ RegFrame s t [d] 0#8) ∧
    Completes (exec (.swap d) s) (fun t =>
      (t.reg d).toNat = 16 * ((s.reg d).toNat % 16) + (s.reg d).toNat / 16 ∧
      t.pc = s.pc + 1#14 ∧ RegFrame s t [d] 0#8)

/-- `bst Rr,b`, encoded `1111 101r rrrr 0bbb`, copies bit `b` into T (R160), and `bld Rd,b` copies T into bit `b` (R159,
the spec's general knowledge, log entry 4); the other flags, the other seven bits and all else are kept. -/
def Obligations.BstAndBldCopyOneBit : Prop :=
  ∀ (s : State) (r : Reg) (b : BitVec 3),
    encode (.bst r b) = [0b1111101#7 ++ r ++ 0#1 ++ b] ∧
    Completes (exec (.bst r b) s) (fun t =>
      t.flags.t = (s.reg r).getLsbD b.toNat ∧ t.pc = s.pc + 1#14 ∧ RegFrame s t [] 0x40#8) ∧
    Completes (exec (.bld r b) s) (fun t =>
      (∀ n, n < 8 → (t.reg r).getLsbD n = if n = b.toNat then s.flags.t else (s.reg r).getLsbD n) ∧
      t.pc = s.pc + 1#14 ∧ RegFrame s t [r] 0#8)

/-- The six multiplies complete in every state. `mul`, `muls` and `mulsu`: r1:r0 is the exact product, unsigned, signed,
signed by unsigned, and C its bit 15. `fmul`, `fmuls` and `fmulsu`: r1:r0 is twice the product modulo 65536, and C the
bit shifted out. Z is whether what is written is zero; the other flags and registers are kept. (The flag equations are
the spec's general knowledge, log entry 4.) -/
def Obligations.MultipliesWriteTheProduct : Prop :=
  (∀ (s : State) (d r : Reg) (i : Instr) (exact : Word → Prop),
     (i = .mul d r ∧ exact = (fun p => p.toNat = (s.reg d).toNat * (s.reg r).toNat)) ∨
     (i = .muls d r ∧ exact = (fun p => p.toInt = (s.reg d).toInt * (s.reg r).toInt)) ∨
     (i = .mulsu d r ∧ exact = (fun p => p.toInt = (s.reg d).toInt * (s.reg r).toNat)) →
     Completes (exec i s) fun t =>
       exact (t.reg 1#5 ++ t.reg 0#5) ∧ t.flags.c = (t.reg 1#5).getLsbD 7 ∧
       t.flags.z = decide (t.reg 1#5 ++ t.reg 0#5 = 0#16) ∧ t.pc = s.pc + 1#14 ∧ RegFrame s t [0#5, 1#5] 0x03#8) ∧
  (∀ (s : State) (d r : Reg) (i : Instr) (p : Int),
     (i, p) ∈ [(Instr.fmul d r, ((s.reg d).toNat : Int) * (s.reg r).toNat),
       (.fmuls d r, (s.reg d).toInt * (s.reg r).toInt), (.fmulsu d r, (s.reg d).toInt * (s.reg r).toNat)] →
     Completes (exec i s) fun t =>
       ((t.reg 1#5 ++ t.reg 0#5 : Word).toNat : Int) = 2 * p % 65536 ∧
       t.flags.c = decide (32768 ≤ p % 65536) ∧ t.flags.z = decide (t.reg 1#5 ++ t.reg 0#5 = 0#16) ∧
       t.pc = s.pc + 1#14 ∧ RegFrame s t [0#5, 1#5] 0x03#8)

/-- `adiw` and `sbiw` complete in every state: the pair plus or minus `K` modulo 65536, C the unsigned and V the signed
overflow, N, Z and S of the 16-bit result; H, T and I kept. (The flag equations are the spec's general knowledge and,
for S, its own decision D20, log entry 4.) -/
def Obligations.WordAddAndSubtractImmediate : Prop :=
  ∀ (s : State) (d : Reg) (k : BitVec 6) (i : Instr) (x : Int) (sx : Int),
    (i, x, sx) ∈ [(Instr.adiw d k, ((s.pair d).toNat : Int) + k.toNat, (s.pair d).toInt + k.toNat),
      (.sbiw d k, ((s.pair d).toNat : Int) - k.toNat, (s.pair d).toInt - k.toNat)] →
    Completes (exec i s) fun t =>
      ((t.pair d).toNat : Int) = x % 65536 ∧ t.flags.c = decide (x < 0 ∨ 65536 ≤ x) ∧
      t.flags.v = decide (sx < -32768 ∨ 32767 < sx) ∧ t.flags.n = (t.reg (d + 1#5)).getLsbD 7 ∧
      t.flags.s = (t.flags.n ^^ t.flags.v) ∧ t.flags.z = decide (t.pair d = 0#16) ∧
      t.pc = s.pc + 1#14 ∧ RegFrame s t [d, d + 1#5] 0x1F#8

/-! ## Skips -/

/-- The five skip instructions: if the condition fails they go on to `pc + 1`, whatever stands there; if it holds and
the program defines the word `w` after them, they pass the next instruction, whose first word alone gives its length,
even if it is reserved. `cpse`, `sbrc` and `sbrs` change nothing but `pc`; `sbic` and `sbis` read their I/O register
once, skip or not, and change nothing else. The words that encode them are given too. (The length of what is passed is
the spec's own decision D22, log entry 4; that the word must be defined, and only for a skip taken, is log entries 11
and 12; the device's answer is the free value of log entry 3.) -/
def Obligations.SkipsPassTheNextInstruction : Prop :=
  ∀ (s : State) (d r : Reg) (a : BitVec 5) (n : BitVec 3) (i : Instr) (holds : Bool) (history : List IoEvent)
    (word : Word),
    let port : DataAddr := 0x0020#16 + a.setWidth 16
    (i, holds, history, word) ∈
      [(Instr.cpse d r, decide (s.reg d = s.reg r), s.events,
          0b000100#6 ++ r.extractLsb' 4 1 ++ d ++ r.extractLsb' 0 4),
       (.sbrc r n, !(s.reg r).getLsbD n.toNat, s.events, 0b1111110#7 ++ r ++ 0#1 ++ n),
       (.sbrs r n, (s.reg r).getLsbD n.toNat, s.events, 0b1111111#7 ++ r ++ 0#1 ++ n),
       (.sbic a n, !(Config.deviceRead s.events port).getLsbD n.toNat, .read port :: s.events,
          0b10011001#8 ++ a ++ n),
       (.sbis a n, (Config.deviceRead s.events port).getLsbD n.toNat, .read port :: s.events,
          0b10011011#8 ++ a ++ n)] →
    encode i = [word] ∧
    (holds = false → exec i s = .next { s with events := history, pc := s.pc + 1#14 }) ∧
    (∀ w, holds = true → programWord (s.pc + 1#14) s = .next w →
      exec i s = .next { s with events := history, pc := s.pc + 1#14 + BitVec.ofNat 14 (ilen w) })

/-! ## I/O and SREG bits -/

/-- `in Rd,A` and `out A,Rr` complete for every `A`. `in` reads the byte at data address 0x20 + A, which is SPL, SPH or
SREG at 0x3D, 0x3E, 0x3F and else the device's answer, recorded; nothing else changes. `out` writes the byte there: at
0x3F it is all of SREG and can inhibit interrupts, at 0x3D and 0x3E it is SPL and SPH, elsewhere the device observes it.
(The places of SP and the inhibiting are the spec's own decisions D8 and D30, log entry 4; the device's answer and
history are log entry 3.) -/
def Obligations.InReadsAndOutWritesTheIoRegister : Prop :=
  (∀ (s : State) (d : Reg) (a : BitVec 6),
     Completes (exec (.inp d a) s) fun t =>
       t.reg d = (if a = 0x3D#6 then s.sp.extractLsb' 0 8 else if a = 0x3E#6 then s.sp.extractLsb' 8 8
         else if a = 0x3F#6 then s.sreg else Config.deviceRead s.events (0x0020#16 + a.setWidth 16)) ∧
       t.pc = s.pc + 1#14 ∧
       RegFrame { s with events := if a.toNat < 0x3D then .read (0x0020#16 + a.setWidth 16) :: s.events else s.events }
         t [d] 0#8) ∧
  (∀ (s : State) (a : BitVec 6) (r : Reg),
     Completes (exec (.out a r) s) fun t =>
       t.pc = s.pc + 1#14 ∧ ByteStored s t (0x0020#16 + a.setWidth 16) (s.reg r) [] ∧
       (a = 0x3F#6 → t.sreg = s.reg r) ∧ (a ≠ 0x3F#6 → t.sreg = s.sreg) ∧
       (a = 0x3D#6 → t.sp = s.sp.extractLsb' 8 8 ++ s.reg r) ∧ (a = 0x3E#6 → t.sp = s.reg r ++ s.sp.extractLsb' 0 8) ∧
       (a.toNat < 0x3D → t.sp = s.sp ∧ t.events = .write (0x0020#16 + a.setWidth 16) (s.reg r) :: s.events))

/-- `cbi` and `sbi` complete for every `A` and `b`: one read of the device register, then one write of the byte read with
bit `b` made 0, or 1; no register, flag or memory byte changes. (The spec's own decision D23, log entry 17.) -/
def Obligations.CbiAndSbiRewriteOneIoByte : Prop :=
  ∀ (s : State) (a : BitVec 5) (b : BitVec 3) (i : Instr) (x : Bool),
    (i, x) ∈ [(Instr.cbi a b, false), (.sbi a b, true)] →
    let port : DataAddr := 0x0020#16 + a.setWidth 16
    ∃ v : Byte,
      (∀ n, n < 8 → v.getLsbD n = if n = b.toNat then x else (Config.deviceRead s.events port).getLsbD n) ∧
      exec i s = .next { s with
        events := .write port v :: .read port :: s.events
        pc := s.pc + 1#14 }

/-- `bset s` and `bclr s` complete in every state: bit `s` of SREG is 1, or 0, and no other; `sei` from I = 0 inhibits
interrupts, nothing else does. (The inhibiting is the spec's own decision D30, log entry 4.) -/
def Obligations.BsetAndBclrWriteOneSregBit : Prop :=
  ∀ (s : State) (b : BitVec 3) (i : Instr) (x : Bool), (i, x) ∈ [(Instr.bset b, true), (.bclr b, false)] →
    Completes (exec i s) fun t =>
      t.sreg.getLsbD b.toNat = x ∧ t.pc = s.pc + 1#14 ∧
      RegFrame { s with irqInhibit := if i = .bset 7#3 ∧ s.sreg.getLsbD 7 = false then true else s.irqInhibit }
        t [] (1#8 <<< b.toNat)

/-! ## Loads and stores -/

/-- `lds`, `ldd` and `ld Rd,X` complete when the address is inside the data space: `Rd` gets the byte there (any `Rd`,
the pointer's own registers included); only a device's history changes besides. Above 0x08FF they fault
`DataAddressOutOfRange`. The words that encode them are given too. (The fault and the registers' place in the data space
are the spec's own decisions D6 and D18, log entry 4; the device's answer and history are log entry 3.) -/
def Obligations.LoadsReadOneByte : Prop :=
  ∀ (s : State) (d : Reg) (q : BitVec 6) (k : BitVec 16) (i : Instr) (a : DataAddr) (n : ProgAddr) (ws : List Word),
    (i, a, n, ws) ∈ [(Instr.lds d k, k, 2#14, [0b1001000#7 ++ d ++ 0b0000#4, k]),
      (.lddZ d q, (s.reg 31#5 ++ s.reg 30#5 : Word) + q.setWidth 16, 1#14,
        [0b10#2 ++ q.extractLsb' 5 1 ++ 0#1 ++ q.extractLsb' 3 2 ++ 0#1 ++ d ++ 0#1 ++ q.extractLsb' 0 3]),
      (.lddY d q, (s.reg 29#5 ++ s.reg 28#5 : Word) + q.setWidth 16, 1#14,
        [0b10#2 ++ q.extractLsb' 5 1 ++ 0#1 ++ q.extractLsb' 3 2 ++ 0#1 ++ d ++ 1#1 ++ q.extractLsb' 0 3]),
      (.ldX d, (s.reg 27#5 ++ s.reg 26#5 : Word), 1#14, [0b1001000#7 ++ d ++ 0b1100#4])] →
    encode i = ws ∧
    (a.toNat ≤ 0x08FF → Completes (exec i s) fun t =>
      t.reg d = s.readByte a ∧ t.pc = s.pc + n ∧ RegFrame (s.afterRead a) t [d] 0#8) ∧
    (0x08FF < a.toNat → exec i s = .fault (.dataAddressOutOfRange s.pc a .read))

/-- The six loads with pointer update, for a data register that is not the pointer's: the byte at the old pointer, or at
the decremented one, into `Rd`; the pointer one higher, or one lower; nothing else but a device's history. (The
registers' place in the data space is the spec's own decision D18, log entry 4; the device's answer is log entry 3.) -/
def Obligations.LoadsWithUpdateMoveThePointer : Prop :=
  ∀ (s : State) (d : Reg) (i : Instr) (low : Reg) (offset step : Word),
    (i, low, offset, step) ∈
      [(Instr.ldXInc d, 26#5, 0#16, 1#16), (.ldXDec d, 26#5, 0xFFFF#16, 0xFFFF#16),
       (.ldYInc d, 28#5, 0#16, 1#16), (.ldYDec d, 28#5, 0xFFFF#16, 0xFFFF#16),
       (.ldZInc d, 30#5, 0#16, 1#16), (.ldZDec d, 30#5, 0xFFFF#16, 0xFFFF#16)] →
    d ≠ low → d ≠ low + 1#5 → (s.pair low + offset).toNat ≤ 0x08FF →
    Completes (exec i s) fun t =>
      t.reg d = s.readByte (s.pair low + offset) ∧ t.pair low = s.pair low + step ∧ t.pc = s.pc + 1#14 ∧
      RegFrame (s.afterRead (s.pair low + offset)) t [d, low, low + 1#5] 0#8

/-- `sts`, `std` and `st X,Rr` complete when the address is inside the data space: the byte there becomes `Rr` (any
`Rr`) and no other byte of the data space changes. Above 0x08FF they fault `DataAddressOutOfRange`. The words that
encode them are given too. (The fault, the registers' place in the data space and the inhibiting of interrupts by a
store to SREG are the spec's own decisions D6, D18 and D30, log entry 4; the device's history is log entry 3.) -/
def Obligations.StoresWriteOneByte : Prop :=
  ∀ (s : State) (r : Reg) (q : BitVec 6) (k : BitVec 16) (i : Instr) (a : DataAddr) (n : ProgAddr) (ws : List Word),
    (i, a, n, ws) ∈ [(Instr.sts k r, k, 2#14, [0b1001001#7 ++ r ++ 0b0000#4, k]),
      (.stdZ q r, (s.reg 31#5 ++ s.reg 30#5 : Word) + q.setWidth 16, 1#14,
        [0b10#2 ++ q.extractLsb' 5 1 ++ 0#1 ++ q.extractLsb' 3 2 ++ 1#1 ++ r ++ 0#1 ++ q.extractLsb' 0 3]),
      (.stdY q r, (s.reg 29#5 ++ s.reg 28#5 : Word) + q.setWidth 16, 1#14,
        [0b10#2 ++ q.extractLsb' 5 1 ++ 0#1 ++ q.extractLsb' 3 2 ++ 1#1 ++ r ++ 1#1 ++ q.extractLsb' 0 3]),
      (.stX r, (s.reg 27#5 ++ s.reg 26#5 : Word), 1#14, [0b1001001#7 ++ r ++ 0b1100#4])] →
    encode i = ws ∧
    (a.toNat ≤ 0x08FF → Completes (exec i s) fun t => t.pc = s.pc + n ∧ ByteStored s t a (s.reg r) []) ∧
    (0x08FF < a.toNat → exec i s = .fault (.dataAddressOutOfRange s.pc a .write))

/-- The six stores with pointer update, for a data register that is not the pointer's: `Rr` at the old pointer, or at
the decremented one; then the pointer one higher, or one lower, even where the store hit the pointer's own registers; no
other byte of the data space. (D18 and D30, log entry 4; the pointer written back last is the model's reading, log entry
22; the device's history is log entry 3.) -/
def Obligations.StoresWithUpdateMoveThePointer : Prop :=
  ∀ (s : State) (r : Reg) (i : Instr) (low : Reg) (offset step : Word),
    (i, low, offset, step) ∈
      [(Instr.stXInc r, 26#5, 0#16, 1#16), (.stXDec r, 26#5, 0xFFFF#16, 0xFFFF#16),
       (.stYInc r, 28#5, 0#16, 1#16), (.stYDec r, 28#5, 0xFFFF#16, 0xFFFF#16),
       (.stZInc r, 30#5, 0#16, 1#16), (.stZDec r, 30#5, 0xFFFF#16, 0xFFFF#16)] →
    r ≠ low → r ≠ low + 1#5 → (s.pair low + offset).toNat ≤ 0x08FF →
    Completes (exec i s) fun t =>
      t.pair low = s.pair low + step ∧ t.pc = s.pc + 1#14 ∧
      ByteStored s t (s.pair low + offset) (s.reg r) [regAddr low, regAddr (low + 1#5)]

/-- `push Rr` completes when SP is inside the data space: the byte at SP, then SP one lower than the write left it
(where SP points at SPL or SPH this order is the model's reading, log entry 9). -/
def Obligations.PushStoresThenDecrements : Prop :=
  ∀ (s : State) (r : Reg), s.sp.toNat ≤ 0x08FF →
    Completes (exec (.push r) s) fun t =>
      t.sp = spAfterStore s.sp (s.reg r) - 1#16 ∧ t.pc = s.pc + 1#14 ∧
      ByteStored s t s.sp (s.reg r) [Config.splAddr, Config.sphAddr] ∧
      (s.sp ≠ 0x005D#16 → s.sp ≠ 0x005E#16 → t.sp = s.sp - 1#16)

/-- `pop Rd` completes when SP + 1 is inside the data space: SP one higher, `Rd` the byte there; nothing else but a
device's history. (Where that byte is SPL or SPH itself, `Rd` is a byte of SP already moved: the model's reading, log
entry 23.) -/
def Obligations.PopIncrementsThenLoads : Prop :=
  ∀ (s : State) (d : Reg), (s.sp + 1#16).toNat ≤ 0x08FF →
    Completes (exec (.pop d) s) fun t =>
      t.reg d = s.poppedByte ∧
      (s.sp + 1#16 ∉ [Config.splAddr, Config.sphAddr] → t.reg d = s.readByte (s.sp + 1#16)) ∧
      (s.sp + 1#16 = Config.splAddr → t.reg d = 0x5D#8) ∧
      (s.sp + 1#16 = Config.sphAddr → t.reg d = 0x00#8) ∧
      t.sp = s.sp + 1#16 ∧ t.pc = s.pc + 1#14 ∧
      RegFrame s.afterPop t [d] 0#8

/-- `push Rr` and then `pop Rd` on a stack in SRAM: `Rd` gets what `Rr` held, SP is back, and no other register or flag
changed; for one and the same register, nothing did. -/
def Obligations.PushThenPopRestores : Prop :=
  ∀ (s t : State) (r d : Reg), 0x0100 ≤ s.sp.toNat → s.sp.toNat ≤ 0x08FF → exec (.push r) s = .next t →
    Completes (exec (.pop d) t) fun u =>
      u.reg d = s.reg r ∧ u.sp = s.sp ∧ u.sreg = s.sreg ∧ (∀ q, q ≠ d → u.reg q = s.reg q) ∧
      (d = r → ∀ q, u.reg q = s.reg q) ∧ u.pc = s.pc + 2#14

/-- `lpm`, `lpm Rd,Z` and `lpm Rd,Z+` complete when Z is below 0x8000 and the program defines its byte, and need no
other byte (log entry 12): bit 0 of Z picks the byte of program word Z / 2, low for 0; only `Rd` (r0 for `lpm`) changes,
and Z by one in the last form. -/
def Obligations.LpmReadsOneProgramByte : Prop :=
  ∀ (s : State) (d : Reg) (v : Byte), (s.pair 30#5).toNat < 0x8000 →
    Memory.byteAt s.program (s.pair 30#5).toNat = some v →
    (∀ w, programWord (BitVec.ofNat 14 ((s.pair 30#5).toNat / 2)) s = .next w →
      v = if (s.pair 30#5).getLsbD 0 = true then w.extractLsb' 8 8 else w.extractLsb' 0 8) ∧
    Completes (exec .lpm s) (fun t => t.reg 0#5 = v ∧ t.pc = s.pc + 1#14 ∧ RegFrame s t [0#5] 0#8) ∧
    Completes (exec (.lpmZ d) s) (fun t => t.reg d = v ∧ t.pc = s.pc + 1#14 ∧ RegFrame s t [d] 0#8) ∧
    (d ≠ 30#5 → d ≠ 31#5 → Completes (exec (.lpmZInc d) s) fun t =>
      t.reg d = v ∧ t.pair 30#5 = s.pair 30#5 + 1#16 ∧ t.pc = s.pc + 1#14 ∧ RegFrame s t [d, 30#5, 31#5] 0#8)

/-- When Z / 2 is above 0x3FFF the three `lpm` forms fault `ProgAddressOutOfRange` with `pc` and Z; `lpm r30,Z+` and
`lpm r31,Z+` fault `UndefinedOperandCombination` whatever Z is. (The spec's own decisions D31 and D19, log entry 4.) -/
def Obligations.LpmFaults : Prop :=
  ∀ (s : State) (d : Reg),
    (0x3FFF < (s.pair 30#5).toNat / 2 →
      exec .lpm s = .fault (.progAddressOutOfRange s.pc (s.pair 30#5)) ∧
      exec (.lpmZ d) s = .fault (.progAddressOutOfRange s.pc (s.pair 30#5)) ∧
      (d ≠ 30#5 → d ≠ 31#5 → exec (.lpmZInc d) s = .fault (.progAddressOutOfRange s.pc (s.pair 30#5)))) ∧
    exec (.lpmZInc 30#5) s = .fault (.undefinedOperandCombination s.pc 0x91E5#16) ∧
    exec (.lpmZInc 31#5) s = .fault (.undefinedOperandCombination s.pc 0x91F5#16)

/-! ## Control transfer -/

/-- An absolute target of 0x4000 or more faults `TargetOutOfRange`, never truncated: for `jmp` and `call`, `ijmp` and
`icall` before any push and whatever SP is, for `ret` and `reti` after both bytes are read from inside the data space.
(The spec's own decision D21, log entry 4; a popped byte that is SPL or SPH itself is read with SP moved, log entry 23.)
-/
def Obligations.AbsoluteTargetsOutOfRangeFault : Prop :=
  ∀ (s : State) (k : BitVec 22),
    (0x4000 ≤ k.toNat → exec (.jmp k) s = .fault (.targetOutOfRange s.pc k.toNat) ∧
      exec (.call k) s = .fault (.targetOutOfRange s.pc k.toNat)) ∧
    (0x4000 ≤ (s.pair 30#5).toNat → exec .ijmp s = .fault (.targetOutOfRange s.pc (s.pair 30#5).toNat) ∧
      exec .icall s = .fault (.targetOutOfRange s.pc (s.pair 30#5).toNat)) ∧
    ((s.sp + 1#16).toNat ≤ 0x08FF → (s.sp + 2#16).toNat ≤ 0x08FF → 0x4000 ≤ s.poppedWord.toNat →
      exec .ret s = .fault (.targetOutOfRange s.pc s.poppedWord.toNat) ∧
      exec .reti s = .fault (.targetOutOfRange s.pc s.poppedWord.toNat))

/-- `call`, `icall` and `rcall` complete when their target is in program memory and both pushes in the data space: the
address of the word after the instruction is pushed, then `pc` is the target; nothing else changes. (Two bytes, low byte
first: the spec's own decision D9, log entry 4. Where SP points at SPL or SPH: the model's reading, log entry 9. That
`icall` goes to Z as it was before the pushes, even where a push lands on r30 or r31: the model's reading, log entry
22.) -/
def Obligations.CallsPushTheReturnAddress : Prop :=
  ∀ (s : State) (k : BitVec 22) (j : BitVec 12) (i : Instr) (n target : ProgAddr),
    (i = .call k ∧ n = 2#14 ∧ k.toNat < 0x4000 ∧ target = BitVec.ofNat 14 k.toNat) ∨
    (i = .icall ∧ n = 1#14 ∧ (s.pair 30#5).toNat < 0x4000 ∧ target = BitVec.ofNat 14 (s.pair 30#5).toNat) ∨
    (i = .rcall j ∧ n = 1#14 ∧ target = s.pc + 1#14 + j.signExtend 14) →
    s.canPush (s.pc + n) →
    Completes (exec i s) fun t => t.pc = target ∧ ReturnPushed s t (s.pc + n)

/-- On a stack in SRAM the return address that `call`, `icall`, `rcall` or an interrupt entry pushes lies with its low
byte at the old SP, its high byte (bits 7 and 6 zero) one below, and SP ends two lower; registers and every other byte
of SRAM are kept. A call keeps SREG, an entry all of it but I, which is cleared. (The spec's own decisions D9 and D11,
log entry 4; the acknowledgement in the history is log entry 6.) -/
def Obligations.AReturnAddressOnTheStack : Prop :=
  ∀ (s t : State) (ra : ProgAddr), 0x0101 ≤ s.sp.toNat → s.sp.toNat ≤ 0x08FF →
    let pushed : Prop :=
      (t.sramByte s.sp.toNat).toNat = ra.toNat % 256 ∧ (t.sramByte (s.sp.toNat - 1)).toNat = ra.toNat / 256 ∧
      t.sp.toNat = s.sp.toNat - 2 ∧ (∀ q, t.reg q = s.reg q) ∧
      ∀ a, a ≠ s.sp.toNat → a ≠ s.sp.toNat - 1 → t.sramByte a = s.sramByte a
    (∀ i : Instr, ((∃ k, i = .call k) ∧ ra = s.pc + 2#14 ∨ (i = .icall ∨ ∃ j, i = .rcall j) ∧ ra = s.pc + 1#14) →
      exec i s = .next t → pushed ∧ t.sreg = s.sreg ∧ t.events = s.events) ∧
    (∀ v : IrqVector, (acceptanceTest s).1 = some v → step s = .next t → ra = s.pc →
      pushed ∧ t.sreg.getLsbD 7 = false ∧ (∀ b, b < 7 → t.sreg.getLsbD b = s.sreg.getLsbD b) ∧
      t.events = .irqAck v :: s.events)

/-- `ret` and `reti` complete when the two bytes above SP are inside the data space and make a word address in program
memory: `pc` is that address, SP two higher; `reti` sets I as well, inhibiting interrupts if I was 0; nothing else. (The
spec's own decisions D9 and D30, log entry 4; a popped byte that is SPL or SPH itself is read with SP moved, log entry
23.) -/
def Obligations.ReturnsPopTheReturnAddress : Prop :=
  ∀ s : State, (s.sp + 1#16).toNat ≤ 0x08FF → (s.sp + 2#16).toNat ≤ 0x08FF → s.poppedWord.toNat < 0x4000 →
    Completes (exec .ret s) (fun t => t.pc.toNat = s.poppedWord.toNat ∧ t.sp = s.sp + 2#16 ∧
      RegFrame s.afterPop.afterPop t [] 0#8) ∧
    Completes (exec .reti s) (fun t => t.pc.toNat = s.poppedWord.toNat ∧ t.sp = s.sp + 2#16 ∧
      t.sreg.getLsbD 7 = true ∧
      RegFrame { s.afterPop.afterPop with irqInhibit := s.irqInhibit || !s.sreg.getLsbD 7 } t [] 0x80#8)

/-- A return with a byte above data address 0x08FF, and a call (`call` and `icall` with a target in program memory,
`rcall`) or an interrupt entry with a push above it, fault `DataAddressOutOfRange` at the first such access. (The spec's
own decisions D6 and, for the entry, D11, log entry 4. Where the second push goes once the first has hit SPL or SPH is
the model's reading, log entry 9.) -/
def Obligations.StackOutsideTheDataSpaceFaults : Prop :=
  ∀ (s : State) (k : BitVec 22) (j : BitVec 12),
    (∀ i ∈ [Instr.ret, .reti], 0x08FF < (s.sp + 1#16).toNat →
      exec i s = .fault (.dataAddressOutOfRange s.pc (s.sp + 1#16) .read)) ∧
    (∀ i ∈ [Instr.ret, .reti], (s.sp + 1#16).toNat ≤ 0x08FF → 0x08FF < (s.sp + 2#16).toNat →
      exec i s = .fault (.dataAddressOutOfRange s.pc (s.sp + 2#16) .read)) ∧
    (∀ (i : Instr) (n : ProgAddr),
      (i = .call k ∧ n = 2#14 ∧ k.toNat < 0x4000) ∨ (i = .icall ∧ n = 1#14 ∧ (s.pair 30#5).toNat < 0x4000) ∨
      (i = .rcall j ∧ n = 1#14) →
      (0x08FF < s.sp.toNat → exec i s = .fault (.dataAddressOutOfRange s.pc s.sp .write)) ∧
      (s.sp.toNat ≤ 0x08FF → 0x08FF < (s.highPushAt (s.pc + n)).toNat →
        exec i s = .fault (.dataAddressOutOfRange s.pc (s.highPushAt (s.pc + n)) .write))) ∧
    (∀ v : IrqVector, (acceptanceTest s).1 = some v →
      (0x08FF < s.sp.toNat → step s = .fault (.dataAddressOutOfRange s.pc s.sp .write)) ∧
      (s.sp.toNat ≤ 0x08FF → 0x08FF < (s.highPushAt s.pc).toNat →
        step s = .fault (.dataAddressOutOfRange s.pc (s.highPushAt s.pc) .write)))

/-- A call on a stack in SRAM and then `ret` come back to the word after the call with SP, every register and SREG as
before the call. (The return address's layout is the spec's own decision D9, log entry 4.) -/
def Obligations.CallThenRetComesBack : Prop :=
  ∀ (s t : State) (k : BitVec 22), 0x0101 ≤ s.sp.toNat → s.sp.toNat ≤ 0x08FF → exec (.call k) s = .next t →
    Completes (exec .ret t) fun u =>
      u.pc = s.pc + 2#14 ∧ u.sp = s.sp ∧ u.sreg = s.sreg ∧ u.events = s.events ∧ ∀ q, u.reg q = s.reg q

/-- Interrupt entry on a stack in SRAM and then `reti` come back to the interrupted instruction with SP, every register
and the other seven flags as before, I set, and one instruction to run before the next interrupt. (The spec's own
decisions D9, D11 and D30, log entry 4.) -/
def Obligations.InterruptThenRetiComesBack : Prop :=
  ∀ (s t : State) (v : IrqVector), 0x0101 ≤ s.sp.toNat → s.sp.toNat ≤ 0x08FF → interruptEntry v s = .next t →
    Completes (exec .reti t) fun u =>
      u.pc = s.pc ∧ u.sp = s.sp ∧ (∀ q, u.reg q = s.reg q) ∧ u.sreg.getLsbD 7 = true ∧
      (∀ b, b < 7 → u.sreg.getLsbD b = s.sreg.getLsbD b) ∧ u.irqInhibit = true ∧ acceptanceTest u = (none, u)

/-- `rjmp`, `brbs` and `brbc` complete in every state: `pc + 1 + k` with `k` signed, modulo 0x4000; the branches only
when bit `s` of SREG is 1, or 0, else `pc + 1`. `jmp` and `ijmp` complete when their target is a word address in program
memory, and go there; else they fault `TargetOutOfRange`. Nothing but `pc` changes. The words that encode them are given
too. (The wrap modulo 0x4000 and the fault are the spec's own decisions D2 and D21, log entry 4.) -/
def Obligations.JumpsAndBranchesGoToTheirTarget : Prop :=
  ∀ (s : State) (j : BitVec 12) (k : BitVec 7) (b : BitVec 3) (a : BitVec 22),
    let z : Word := s.reg 31#5 ++ s.reg 30#5
    encode (.rjmp j) = [0b1100#4 ++ j] ∧ encode (.brbs b k) = [0b111100#6 ++ k ++ b] ∧
    encode (.brbc b k) = [0b111101#6 ++ k ++ b] ∧ encode .ijmp = [0b1001010000001001#16] ∧
    encode (.jmp a) = [0b1001010#7 ++ a.extractLsb' 17 5 ++ 0b110#3 ++ a.extractLsb' 16 1, a.extractLsb' 0 16] ∧
    Completes (exec (.rjmp j) s) (fun t =>
      (t.pc.toNat : Int) = (s.pc.toNat + 1 + j.toInt) % 0x4000 ∧ t = s.withPc t.pc) ∧
    Completes (exec (.brbs b k) s) (fun t =>
      (t.pc.toNat : Int) = (if s.sreg.getLsbD b.toNat = true then (s.pc.toNat + 1 + k.toInt) % 0x4000
        else (s.pc.toNat + 1) % 0x4000 : Int) ∧ t = s.withPc t.pc) ∧
    Completes (exec (.brbc b k) s) (fun t =>
      (t.pc.toNat : Int) = (if s.sreg.getLsbD b.toNat = false then (s.pc.toNat + 1 + k.toInt) % 0x4000
        else (s.pc.toNat + 1) % 0x4000 : Int) ∧ t = s.withPc t.pc) ∧
    (a.toNat ≤ 0x3FFF → Completes (exec (.jmp a) s) fun t => t.pc.toNat = a.toNat ∧ t = s.withPc t.pc) ∧
    (0x3FFF < a.toNat → exec (.jmp a) s = .fault (.targetOutOfRange s.pc a.toNat)) ∧
    (z.toNat ≤ 0x3FFF → Completes (exec .ijmp s) fun t => t.pc.toNat = z.toNat ∧ t = s.withPc t.pc) ∧
    (0x3FFF < z.toNat → exec .ijmp s = .fault (.targetOutOfRange s.pc z.toNat))

/-- Where every instruction that has a next state takes `pc` (R26): one row per row of the rule's table. `des`, `eijmp`,
`eicall` and `break` have no next state; `sleep` goes on. The three calls push the address of the instruction after them
first. (The wrap, the return address's layout, sleep and a skip's length are the spec's own decisions D2, D9, D12 and
D22, log entry 4. Pushes that hit SPL or SPH are the model's reading, log entry 9; the defined word a taken skip needs,
log entries 11 and 12; the target of `icall` before the pushes, log entry 22; a popped byte that is SPL or SPH itself,
read with SP moved, log entry 23; a device's answer, log entry 3.) -/
def Obligations.EveryInstructionAdvancesPcAsTabled : Prop :=
  ∀ (i : Instr) (s t : State), exec i s = .next t →
    let skips (c : Prop) : Prop :=
      (c → ∃ w, programWord (s.pc + 1#14) s = .next w ∧ t.pc = s.pc + 1#14 + BitVec.ofNat 14 (ilen w)) ∧
      (¬ c → t.pc = s.pc + 1#14)
    let ioBit (a : BitVec 5) (n : BitVec 3) : Bool :=
      (Config.deviceRead s.events (0x0020#16 + a.setWidth 16)).getLsbD n.toNat
    match i with
    | .lds _ _ | .sts _ _ => t.pc = s.pc + 2#14
    | .jmp k => t.pc.toNat = k.toNat
    | .call k => t.pc.toNat = k.toNat ∧ ReturnPushed s t (s.pc + 2#14)
    | .rjmp k => (t.pc.toNat : Int) = (s.pc.toNat + k.toInt + 1) % 0x4000
    | .rcall k => (t.pc.toNat : Int) = (s.pc.toNat + k.toInt + 1) % 0x4000 ∧ ReturnPushed s t (s.pc + 1#14)
    | .ijmp => t.pc.toNat = (s.pair 30#5).toNat
    | .icall => t.pc.toNat = (s.pair 30#5).toNat ∧ ReturnPushed s t (s.pc + 1#14)
    | .ret | .reti => t.pc.toNat = s.poppedWord.toNat
    | .brbs b k => (t.pc.toNat : Int) =
        (if s.sreg.getLsbD b.toNat = true then s.pc.toNat + k.toInt + 1 else s.pc.toNat + 1) % 0x4000
    | .brbc b k => (t.pc.toNat : Int) =
        (if s.sreg.getLsbD b.toNat = false then s.pc.toNat + k.toInt + 1 else s.pc.toNat + 1) % 0x4000
    | .cpse d r => skips (s.reg d = s.reg r)
    | .sbrc r n => skips ((s.reg r).getLsbD n.toNat = false)
    | .sbrs r n => skips ((s.reg r).getLsbD n.toNat = true)
    | .sbic a n => skips (ioBit a n = false)
    | .sbis a n => skips (ioBit a n = true)
    | .des _ | .eijmp | .eicall | .brk => False
    | _ => t.pc = s.pc + 1#14

/-! ## MCU control and the stops -/

/-- `nop`, `wdr` and `sleep` complete in every state: `pc + 1`; `wdr` is also recorded as an event, `sleep` also puts the
CPU to sleep; no register, flag or memory byte changes. (`wdr` and `sleep` by the spec's own decisions D14 and D12, log
entry 4.) -/
def Obligations.NopWdrAndSleepOnlyGoOn : Prop :=
  ∀ s : State,
    exec .nop s = .next { s with pc := s.pc + 1#14 } ∧
    exec .wdr s = .next { s with pc := s.pc + 1#14, events := .watchdogReset :: s.events } ∧
    exec .sleep s = .next { s with pc := s.pc + 1#14, asleep := true }

/-- `des`, `eijmp` and `eicall` fault `NotOnThisDevice` in every state, with `pc` and the word, and `break` faults
`DebugOnly` with `pc`. (The spec's own decisions D4, D5 and D13, log entry 4.) -/
def Obligations.InstructionsThisDeviceLacksFault : Prop :=
  ∀ (s : State) (k : BitVec 4),
    exec (.des k) s = .fault (.notOnThisDevice s.pc (0b10010100#8 ++ k ++ 0b1011#4)) ∧
    exec .eijmp s = .fault (.notOnThisDevice s.pc 0x9419#16) ∧
    exec .eicall s = .fault (.notOnThisDevice s.pc 0x9519#16) ∧
    exec .brk s = .fault (.debugOnly s.pc)

end
end

