-- ==== Sys2Proof/Laws/State.lean ====
section
/-! SUPPORT. Every field of `State` under every update of it, and the reading of registers after writing them. -/

namespace Sys2Proof.Machine

/-! ### `State.setReg` -/

@[simp] theorem State.setReg_pc (s : State) (r : Reg) (v : Byte) : (s.setReg r v).pc = s.pc := rfl
@[simp] theorem State.setReg_sreg (s : State) (r : Reg) (v : Byte) : (s.setReg r v).sreg = s.sreg := rfl
@[simp] theorem State.setReg_sp (s : State) (r : Reg) (v : Byte) : (s.setReg r v).sp = s.sp := rfl
@[simp] theorem State.setReg_sram (s : State) (r : Reg) (v : Byte) : (s.setReg r v).sram = s.sram := rfl
@[simp] theorem State.setReg_program (s : State) (r : Reg) (v : Byte) : (s.setReg r v).program = s.program := rfl
@[simp] theorem State.setReg_irqInhibit (s : State) (r : Reg) (v : Byte) : (s.setReg r v).irqInhibit = s.irqInhibit := rfl
@[simp] theorem State.setReg_asleep (s : State) (r : Reg) (v : Byte) : (s.setReg r v).asleep = s.asleep := rfl
@[simp] theorem State.setReg_irqAnswers (s : State) (r : Reg) (v : Byte) : (s.setReg r v).irqAnswers = s.irqAnswers := rfl
@[simp] theorem State.setReg_events (s : State) (r : Reg) (v : Byte) : (s.setReg r v).events = s.events := rfl
@[simp] theorem State.setReg_flags (s : State) (r : Reg) (v : Byte) : (s.setReg r v).flags = s.flags := rfl
@[simp] theorem State.setReg_sramByte (s : State) (r : Reg) (v : Byte) (x : Nat) : (s.setReg r v).sramByte x = s.sramByte x := rfl

/-! ### `State.setPair` -/

@[simp] theorem State.setPair_pc (s : State) (r : Reg) (v : Word) : (s.setPair r v).pc = s.pc := rfl
@[simp] theorem State.setPair_sreg (s : State) (r : Reg) (v : Word) : (s.setPair r v).sreg = s.sreg := rfl
@[simp] theorem State.setPair_sp (s : State) (r : Reg) (v : Word) : (s.setPair r v).sp = s.sp := rfl
@[simp] theorem State.setPair_sram (s : State) (r : Reg) (v : Word) : (s.setPair r v).sram = s.sram := rfl
@[simp] theorem State.setPair_program (s : State) (r : Reg) (v : Word) : (s.setPair r v).program = s.program := rfl
@[simp] theorem State.setPair_irqInhibit (s : State) (r : Reg) (v : Word) : (s.setPair r v).irqInhibit = s.irqInhibit := rfl
@[simp] theorem State.setPair_asleep (s : State) (r : Reg) (v : Word) : (s.setPair r v).asleep = s.asleep := rfl
@[simp] theorem State.setPair_irqAnswers (s : State) (r : Reg) (v : Word) : (s.setPair r v).irqAnswers = s.irqAnswers := rfl
@[simp] theorem State.setPair_events (s : State) (r : Reg) (v : Word) : (s.setPair r v).events = s.events := rfl
@[simp] theorem State.setPair_flags (s : State) (r : Reg) (v : Word) : (s.setPair r v).flags = s.flags := rfl
@[simp] theorem State.setPair_sramByte (s : State) (r : Reg) (v : Word) (x : Nat) : (s.setPair r v).sramByte x = s.sramByte x := rfl

/-! ### `State.setPointer` -/

@[simp] theorem State.setPointer_pc (s : State) (p : Pointer) (v : Word) : (s.setPointer p v).pc = s.pc := rfl
@[simp] theorem State.setPointer_sreg (s : State) (p : Pointer) (v : Word) : (s.setPointer p v).sreg = s.sreg := rfl
@[simp] theorem State.setPointer_sp (s : State) (p : Pointer) (v : Word) : (s.setPointer p v).sp = s.sp := rfl
@[simp] theorem State.setPointer_sram (s : State) (p : Pointer) (v : Word) : (s.setPointer p v).sram = s.sram := rfl
@[simp] theorem State.setPointer_program (s : State) (p : Pointer) (v : Word) : (s.setPointer p v).program = s.program := rfl
@[simp] theorem State.setPointer_irqInhibit (s : State) (p : Pointer) (v : Word) : (s.setPointer p v).irqInhibit = s.irqInhibit := rfl
@[simp] theorem State.setPointer_asleep (s : State) (p : Pointer) (v : Word) : (s.setPointer p v).asleep = s.asleep := rfl
@[simp] theorem State.setPointer_irqAnswers (s : State) (p : Pointer) (v : Word) : (s.setPointer p v).irqAnswers = s.irqAnswers := rfl
@[simp] theorem State.setPointer_events (s : State) (p : Pointer) (v : Word) : (s.setPointer p v).events = s.events := rfl
@[simp] theorem State.setPointer_flags (s : State) (p : Pointer) (v : Word) : (s.setPointer p v).flags = s.flags := rfl
@[simp] theorem State.setPointer_sramByte (s : State) (p : Pointer) (v : Word) (x : Nat) : (s.setPointer p v).sramByte x = s.sramByte x := rfl

/-! ### `State.withPc` -/

@[simp] theorem State.withPc_regs (s : State) (a : ProgAddr) : (s.withPc a).regs = s.regs := rfl
@[simp] theorem State.withPc_pc (s : State) (a : ProgAddr) : (s.withPc a).pc = a := rfl
@[simp] theorem State.withPc_sreg (s : State) (a : ProgAddr) : (s.withPc a).sreg = s.sreg := rfl
@[simp] theorem State.withPc_sp (s : State) (a : ProgAddr) : (s.withPc a).sp = s.sp := rfl
@[simp] theorem State.withPc_sram (s : State) (a : ProgAddr) : (s.withPc a).sram = s.sram := rfl
@[simp] theorem State.withPc_program (s : State) (a : ProgAddr) : (s.withPc a).program = s.program := rfl
@[simp] theorem State.withPc_irqInhibit (s : State) (a : ProgAddr) : (s.withPc a).irqInhibit = s.irqInhibit := rfl
@[simp] theorem State.withPc_asleep (s : State) (a : ProgAddr) : (s.withPc a).asleep = s.asleep := rfl
@[simp] theorem State.withPc_irqAnswers (s : State) (a : ProgAddr) : (s.withPc a).irqAnswers = s.irqAnswers := rfl
@[simp] theorem State.withPc_events (s : State) (a : ProgAddr) : (s.withPc a).events = s.events := rfl
@[simp] theorem State.withPc_reg (s : State) (a : ProgAddr) (q : Reg) : (s.withPc a).reg q = s.reg q := rfl
@[simp] theorem State.withPc_flags (s : State) (a : ProgAddr) : (s.withPc a).flags = s.flags := rfl
@[simp] theorem State.withPc_sramByte (s : State) (a : ProgAddr) (x : Nat) : (s.withPc a).sramByte x = s.sramByte x := rfl
@[simp] theorem State.withPc_pair (s : State) (a : ProgAddr) (q : Reg) : (s.withPc a).pair q = s.pair q := rfl
@[simp] theorem State.withPc_pointer (s : State) (a : ProgAddr) (q : Pointer) : (s.withPc a).pointer q = s.pointer q := rfl

/-! ### `State.advance` -/

@[simp] theorem State.advance_regs (s : State) (n : Nat) : (s.advance n).regs = s.regs := rfl
@[simp] theorem State.advance_pc (s : State) (n : Nat) : (s.advance n).pc = s.pc + BitVec.ofNat 14 n := rfl
@[simp] theorem State.advance_sreg (s : State) (n : Nat) : (s.advance n).sreg = s.sreg := rfl
@[simp] theorem State.advance_sp (s : State) (n : Nat) : (s.advance n).sp = s.sp := rfl
@[simp] theorem State.advance_sram (s : State) (n : Nat) : (s.advance n).sram = s.sram := rfl
@[simp] theorem State.advance_program (s : State) (n : Nat) : (s.advance n).program = s.program := rfl
@[simp] theorem State.advance_irqInhibit (s : State) (n : Nat) : (s.advance n).irqInhibit = s.irqInhibit := rfl
@[simp] theorem State.advance_asleep (s : State) (n : Nat) : (s.advance n).asleep = s.asleep := rfl
@[simp] theorem State.advance_irqAnswers (s : State) (n : Nat) : (s.advance n).irqAnswers = s.irqAnswers := rfl
@[simp] theorem State.advance_events (s : State) (n : Nat) : (s.advance n).events = s.events := rfl
@[simp] theorem State.advance_reg (s : State) (n : Nat) (q : Reg) : (s.advance n).reg q = s.reg q := rfl
@[simp] theorem State.advance_flags (s : State) (n : Nat) : (s.advance n).flags = s.flags := rfl
@[simp] theorem State.advance_sramByte (s : State) (n : Nat) (x : Nat) : (s.advance n).sramByte x = s.sramByte x := rfl
@[simp] theorem State.advance_pair (s : State) (n : Nat) (q : Reg) : (s.advance n).pair q = s.pair q := rfl
@[simp] theorem State.advance_pointer (s : State) (n : Nat) (q : Pointer) : (s.advance n).pointer q = s.pointer q := rfl

/-! ### `State.withSp` -/

@[simp] theorem State.withSp_regs (s : State) (v : Word) : (s.withSp v).regs = s.regs := rfl
@[simp] theorem State.withSp_pc (s : State) (v : Word) : (s.withSp v).pc = s.pc := rfl
@[simp] theorem State.withSp_sreg (s : State) (v : Word) : (s.withSp v).sreg = s.sreg := rfl
@[simp] theorem State.withSp_sp (s : State) (v : Word) : (s.withSp v).sp = v := rfl
@[simp] theorem State.withSp_sram (s : State) (v : Word) : (s.withSp v).sram = s.sram := rfl
@[simp] theorem State.withSp_program (s : State) (v : Word) : (s.withSp v).program = s.program := rfl
@[simp] theorem State.withSp_irqInhibit (s : State) (v : Word) : (s.withSp v).irqInhibit = s.irqInhibit := rfl
@[simp] theorem State.withSp_asleep (s : State) (v : Word) : (s.withSp v).asleep = s.asleep := rfl
@[simp] theorem State.withSp_irqAnswers (s : State) (v : Word) : (s.withSp v).irqAnswers = s.irqAnswers := rfl
@[simp] theorem State.withSp_events (s : State) (v : Word) : (s.withSp v).events = s.events := rfl
@[simp] theorem State.withSp_reg (s : State) (v : Word) (q : Reg) : (s.withSp v).reg q = s.reg q := rfl
@[simp] theorem State.withSp_flags (s : State) (v : Word) : (s.withSp v).flags = s.flags := rfl
@[simp] theorem State.withSp_sramByte (s : State) (v : Word) (x : Nat) : (s.withSp v).sramByte x = s.sramByte x := rfl
@[simp] theorem State.withSp_pair (s : State) (v : Word) (q : Reg) : (s.withSp v).pair q = s.pair q := rfl
@[simp] theorem State.withSp_pointer (s : State) (v : Word) (q : Pointer) : (s.withSp v).pointer q = s.pointer q := rfl

/-! ### `State.record` -/

@[simp] theorem State.record_regs (s : State) (e : IoEvent) : (s.record e).regs = s.regs := rfl
@[simp] theorem State.record_pc (s : State) (e : IoEvent) : (s.record e).pc = s.pc := rfl
@[simp] theorem State.record_sreg (s : State) (e : IoEvent) : (s.record e).sreg = s.sreg := rfl
@[simp] theorem State.record_sp (s : State) (e : IoEvent) : (s.record e).sp = s.sp := rfl
@[simp] theorem State.record_sram (s : State) (e : IoEvent) : (s.record e).sram = s.sram := rfl
@[simp] theorem State.record_program (s : State) (e : IoEvent) : (s.record e).program = s.program := rfl
@[simp] theorem State.record_irqInhibit (s : State) (e : IoEvent) : (s.record e).irqInhibit = s.irqInhibit := rfl
@[simp] theorem State.record_asleep (s : State) (e : IoEvent) : (s.record e).asleep = s.asleep := rfl
@[simp] theorem State.record_irqAnswers (s : State) (e : IoEvent) : (s.record e).irqAnswers = s.irqAnswers := rfl
@[simp] theorem State.record_events (s : State) (e : IoEvent) : (s.record e).events = e :: s.events := rfl
@[simp] theorem State.record_reg (s : State) (e : IoEvent) (q : Reg) : (s.record e).reg q = s.reg q := rfl
@[simp] theorem State.record_flags (s : State) (e : IoEvent) : (s.record e).flags = s.flags := rfl
@[simp] theorem State.record_sramByte (s : State) (e : IoEvent) (x : Nat) : (s.record e).sramByte x = s.sramByte x := rfl
@[simp] theorem State.record_pair (s : State) (e : IoEvent) (q : Reg) : (s.record e).pair q = s.pair q := rfl
@[simp] theorem State.record_pointer (s : State) (e : IoEvent) (q : Pointer) : (s.record e).pointer q = s.pointer q := rfl

/-! ### `State.writeSreg` -/

@[simp] theorem State.writeSreg_regs (s : State) (v : Byte) : (s.writeSreg v).regs = s.regs := rfl
@[simp] theorem State.writeSreg_pc (s : State) (v : Byte) : (s.writeSreg v).pc = s.pc := rfl
@[simp] theorem State.writeSreg_sreg (s : State) (v : Byte) : (s.writeSreg v).sreg = v := rfl
@[simp] theorem State.writeSreg_sp (s : State) (v : Byte) : (s.writeSreg v).sp = s.sp := rfl
@[simp] theorem State.writeSreg_sram (s : State) (v : Byte) : (s.writeSreg v).sram = s.sram := rfl
@[simp] theorem State.writeSreg_program (s : State) (v : Byte) : (s.writeSreg v).program = s.program := rfl
@[simp] theorem State.writeSreg_irqInhibit (s : State) (v : Byte) : (s.writeSreg v).irqInhibit = (s.irqInhibit || (!s.sreg.getLsbD 7 && v.getLsbD 7)) := rfl
@[simp] theorem State.writeSreg_asleep (s : State) (v : Byte) : (s.writeSreg v).asleep = s.asleep := rfl
@[simp] theorem State.writeSreg_irqAnswers (s : State) (v : Byte) : (s.writeSreg v).irqAnswers = s.irqAnswers := rfl
@[simp] theorem State.writeSreg_events (s : State) (v : Byte) : (s.writeSreg v).events = s.events := rfl
@[simp] theorem State.writeSreg_reg (s : State) (v : Byte) (q : Reg) : (s.writeSreg v).reg q = s.reg q := rfl
@[simp] theorem State.writeSreg_sramByte (s : State) (v : Byte) (x : Nat) : (s.writeSreg v).sramByte x = s.sramByte x := rfl
@[simp] theorem State.writeSreg_pair (s : State) (v : Byte) (q : Reg) : (s.writeSreg v).pair q = s.pair q := rfl
@[simp] theorem State.writeSreg_pointer (s : State) (v : Byte) (q : Pointer) : (s.writeSreg v).pointer q = s.pointer q := rfl

/-! ### `State.setFlags` -/

@[simp] theorem State.setFlags_regs (s : State) (f : Flags) : (s.setFlags f).regs = s.regs := rfl
@[simp] theorem State.setFlags_pc (s : State) (f : Flags) : (s.setFlags f).pc = s.pc := rfl
@[simp] theorem State.setFlags_sreg (s : State) (f : Flags) : (s.setFlags f).sreg = f.byte := rfl
@[simp] theorem State.setFlags_sp (s : State) (f : Flags) : (s.setFlags f).sp = s.sp := rfl
@[simp] theorem State.setFlags_sram (s : State) (f : Flags) : (s.setFlags f).sram = s.sram := rfl
@[simp] theorem State.setFlags_program (s : State) (f : Flags) : (s.setFlags f).program = s.program := rfl
@[simp] theorem State.setFlags_irqInhibit (s : State) (f : Flags) : (s.setFlags f).irqInhibit = s.irqInhibit := rfl
@[simp] theorem State.setFlags_asleep (s : State) (f : Flags) : (s.setFlags f).asleep = s.asleep := rfl
@[simp] theorem State.setFlags_irqAnswers (s : State) (f : Flags) : (s.setFlags f).irqAnswers = s.irqAnswers := rfl
@[simp] theorem State.setFlags_events (s : State) (f : Flags) : (s.setFlags f).events = s.events := rfl
@[simp] theorem State.setFlags_reg (s : State) (f : Flags) (q : Reg) : (s.setFlags f).reg q = s.reg q := rfl
@[simp] theorem State.setFlags_sramByte (s : State) (f : Flags) (x : Nat) : (s.setFlags f).sramByte x = s.sramByte x := rfl
@[simp] theorem State.setFlags_pair (s : State) (f : Flags) (q : Reg) : (s.setFlags f).pair q = s.pair q := rfl
@[simp] theorem State.setFlags_pointer (s : State) (f : Flags) (q : Pointer) : (s.setFlags f).pointer q = s.pointer q := rfl

/-! ### `State.storeSram` -/

@[simp] theorem State.storeSram_regs (s : State) (a : Nat) (v : Byte) : (s.storeSram a v).regs = s.regs := rfl
@[simp] theorem State.storeSram_pc (s : State) (a : Nat) (v : Byte) : (s.storeSram a v).pc = s.pc := rfl
@[simp] theorem State.storeSram_sreg (s : State) (a : Nat) (v : Byte) : (s.storeSram a v).sreg = s.sreg := rfl
@[simp] theorem State.storeSram_sp (s : State) (a : Nat) (v : Byte) : (s.storeSram a v).sp = s.sp := rfl
@[simp] theorem State.storeSram_sram (s : State) (a : Nat) (v : Byte) : (s.storeSram a v).sram = Memory.withByte s.sram a v := rfl
@[simp] theorem State.storeSram_program (s : State) (a : Nat) (v : Byte) : (s.storeSram a v).program = s.program := rfl
@[simp] theorem State.storeSram_irqInhibit (s : State) (a : Nat) (v : Byte) : (s.storeSram a v).irqInhibit = s.irqInhibit := rfl
@[simp] theorem State.storeSram_asleep (s : State) (a : Nat) (v : Byte) : (s.storeSram a v).asleep = s.asleep := rfl
@[simp] theorem State.storeSram_irqAnswers (s : State) (a : Nat) (v : Byte) : (s.storeSram a v).irqAnswers = s.irqAnswers := rfl
@[simp] theorem State.storeSram_events (s : State) (a : Nat) (v : Byte) : (s.storeSram a v).events = s.events := rfl
@[simp] theorem State.storeSram_reg (s : State) (a : Nat) (v : Byte) (q : Reg) : (s.storeSram a v).reg q = s.reg q := rfl
@[simp] theorem State.storeSram_flags (s : State) (a : Nat) (v : Byte) : (s.storeSram a v).flags = s.flags := rfl
@[simp] theorem State.storeSram_pair (s : State) (a : Nat) (v : Byte) (q : Reg) : (s.storeSram a v).pair q = s.pair q := rfl
@[simp] theorem State.storeSram_pointer (s : State) (a : Nat) (v : Byte) (q : Pointer) : (s.storeSram a v).pointer q = s.pointer q := rfl

/-! ### `State.beginInstr` -/

@[simp] theorem State.beginInstr_regs (s : State) : (s.beginInstr).regs = s.regs := rfl
@[simp] theorem State.beginInstr_pc (s : State) : (s.beginInstr).pc = s.pc := rfl
@[simp] theorem State.beginInstr_sreg (s : State) : (s.beginInstr).sreg = s.sreg := rfl
@[simp] theorem State.beginInstr_sp (s : State) : (s.beginInstr).sp = s.sp := rfl
@[simp] theorem State.beginInstr_sram (s : State) : (s.beginInstr).sram = s.sram := rfl
@[simp] theorem State.beginInstr_program (s : State) : (s.beginInstr).program = s.program := rfl
@[simp] theorem State.beginInstr_irqInhibit (s : State) : (s.beginInstr).irqInhibit = false := rfl
@[simp] theorem State.beginInstr_asleep (s : State) : (s.beginInstr).asleep = s.asleep := rfl
@[simp] theorem State.beginInstr_irqAnswers (s : State) : (s.beginInstr).irqAnswers = s.irqAnswers := rfl
@[simp] theorem State.beginInstr_events (s : State) : (s.beginInstr).events = s.events := rfl
@[simp] theorem State.beginInstr_reg (s : State) (q : Reg) : (s.beginInstr).reg q = s.reg q := rfl
@[simp] theorem State.beginInstr_flags (s : State) : (s.beginInstr).flags = s.flags := rfl
@[simp] theorem State.beginInstr_sramByte (s : State) (x : Nat) : (s.beginInstr).sramByte x = s.sramByte x := rfl
@[simp] theorem State.beginInstr_pair (s : State) (q : Reg) : (s.beginInstr).pair q = s.pair q := rfl
@[simp] theorem State.beginInstr_pointer (s : State) (q : Pointer) : (s.beginInstr).pointer q = s.pointer q := rfl

/-! ### Registers -/

@[simp] theorem State.setReg_reg_self (s : State) (r : Reg) (v : Byte) : (s.setReg r v).reg r = v := by
  simp [State.reg, State.setReg]

theorem State.setReg_reg_of_ne (s : State) {r q : Reg} (v : Byte) (h : q ≠ r) :
    (s.setReg r v).reg q = s.reg q := by
  have : r.toNat ≠ q.toNat := fun e => h (BitVec.eq_of_toNat_eq e.symm)
  simp [State.reg, State.setReg, this]

theorem State.setReg_reg (s : State) (r q : Reg) (v : Byte) :
    (s.setReg r v).reg q = if q = r then v else s.reg q := by
  by_cases h : q = r
  · subst h; simp
  · simp [h, State.setReg_reg_of_ne]

/-- The other register of a pair is another register. -/
@[simp] theorem reg_succ_ne (r : Reg) : r + 1#5 ≠ r := by
  intro h
  have := congrArg BitVec.toNat h
  simp at this
  omega

@[simp] theorem reg_ne_succ (r : Reg) : r ≠ r + 1#5 := fun h => reg_succ_ne r h.symm

theorem State.setPair_reg (s : State) (r q : Reg) (v : Word) :
    (s.setPair r v).reg q = if q = r + 1#5 then highByte v else if q = r then lowByte v else s.reg q := by
  simp [State.setPair, State.setReg_reg]

/-- The number two bytes make. -/
theorem toNat_pairOf (h l : Byte) : (pairOf h l).toNat = 256 * h.toNat + l.toNat := by
  have := l.isLt
  rw [pairOf, BitVec.toNat_append, ← Nat.shiftLeft_add_eq_or_of_lt l.isLt, Nat.shiftLeft_eq]
  omega

/-- Two bytes of a word make the word. -/
@[simp] theorem pairOf_bytes (v : Word) : pairOf (highByte v) (lowByte v) = v := by
  apply BitVec.eq_of_toNat_eq
  have := v.isLt
  rw [toNat_pairOf, highByte, lowByte, BitVec.extractLsb'_toNat, BitVec.extractLsb'_toNat,
    Nat.shiftRight_eq_div_pow]
  simp
  omega

@[simp] theorem lowByte_pairOf (h l : Byte) : lowByte (pairOf h l) = l := by
  apply BitVec.eq_of_toNat_eq
  have := l.isLt
  rw [lowByte, BitVec.extractLsb'_toNat, toNat_pairOf]; simp; omega

@[simp] theorem highByte_pairOf (h l : Byte) : highByte (pairOf h l) = h := by
  apply BitVec.eq_of_toNat_eq
  have := l.isLt
  have := h.isLt
  rw [highByte, BitVec.extractLsb'_toNat, toNat_pairOf, Nat.shiftRight_eq_div_pow]; simp; omega

@[simp] theorem State.setPair_pair_self (s : State) (r : Reg) (v : Word) : (s.setPair r v).pair r = v := by
  simp only [State.pair, State.setPair_reg]
  simp

@[simp] theorem State.setPointer_pointer_self (s : State) (p : Pointer) (v : Word) :
    (s.setPointer p v).pointer p = v := by
  simp [State.setPointer, State.pointer]

theorem State.setPointer_reg (s : State) (p : Pointer) (q : Reg) (v : Word) :
    (s.setPointer p v).reg q =
      if q = p.low + 1#5 then highByte v else if q = p.low then lowByte v else s.reg q :=
  State.setPair_reg ..

/-! ### Flags -/

/-- The bits of the SREG byte, by flag (R28). -/
theorem Flags.byte_getLsbD (f : Flags) (b : Nat) :
    f.byte.getLsbD b =
      match b with
      | 0 => f.c | 1 => f.z | 2 => f.n | 3 => f.v | 4 => f.s | 5 => f.h | 6 => f.t | 7 => f.i | _ => false := by
  match b with
  | 0 | 1 | 2 | 3 | 4 | 5 | 6 | 7 =>
    rcases f with ⟨_ | _, _ | _, _ | _, _ | _, _ | _, _ | _, _ | _, _ | _⟩ <;> rfl
  | _ + 8 => simp

@[simp] theorem flagsOf_byte (f : Flags) : flagsOf f.byte = f := by
  simp only [flagsOf, Flags.byte_getLsbD]

@[simp] theorem byte_flagsOf (b : Byte) : (flagsOf b).byte = b := by
  apply BitVec.eq_of_getLsbD_eq
  intro i h
  rw [Flags.byte_getLsbD]
  have : i = 0 ∨ i = 1 ∨ i = 2 ∨ i = 3 ∨ i = 4 ∨ i = 5 ∨ i = 6 ∨ i = 7 := by omega
  rcases this with rfl | rfl | rfl | rfl | rfl | rfl | rfl | rfl <;> rfl

@[simp] theorem State.setFlags_flags (s : State) (f : Flags) : (s.setFlags f).flags = f := by
  simp [State.flags, State.setFlags]

/-- Bit `b` set to `x`, read back at any bit. -/
theorem setBit_getLsbD (v : Byte) (b : BitVec 3) (x : Bool) (i : Nat) (hi : i < 8) :
    (setBit v b x).getLsbD i = if i = b.toNat then x else v.getLsbD i := by
  have hb : b.toNat < 8 := b.isLt
  by_cases h : i = b.toNat
  · subst h; cases x <;> simp [setBit, hb]
  · cases x <;> simp [setBit, h, hi] <;> omega

end Sys2Proof.Machine
end

