-- ==== Sys2Proof/Laws/Memory.lean ====
section
/-! SUPPORT. The laws of a memory: reading back what was written, and every operation keeping the canonical form and
the address range. -/

namespace Sys2Proof.Machine

/-! ### Reading after writing -/

@[simp] theorem Memory.byteAt_nil (a : Nat) : Memory.byteAt [] a = none := rfl

@[simp] theorem Memory.byteAt_withByte_self (m : Memory) (a : Nat) (v : Byte) :
    (Memory.withByte m a v).byteAt a = some v := by
  induction m with
  | nil => simp [Memory.withByte, Memory.byteAt]
  | cons c m ih =>
    obtain ⟨k, w⟩ := c
    simp only [Memory.withByte]
    split
    · simp [Memory.byteAt]
    · split
      · simp [Memory.byteAt]
      · rename_i h1 h2
        simp [Memory.byteAt, Ne.symm h2, ih]

theorem Memory.byteAt_withByte_of_ne (m : Memory) {a b : Nat} (v : Byte) (h : b ≠ a) :
    (Memory.withByte m a v).byteAt b = Memory.byteAt m b := by
  induction m with
  | nil => simp [Memory.withByte, Memory.byteAt, Ne.symm h, Memory.unlisted]
  | cons c m ih =>
    obtain ⟨k, w⟩ := c
    simp only [Memory.withByte]
    split
    · simp [Memory.byteAt, Ne.symm h]
    · split
      · rename_i h1 h2
        subst h2
        simp [Memory.byteAt, Ne.symm h]
      · simp [Memory.byteAt, ih]

theorem Memory.byteAt_withByte (m : Memory) (a b : Nat) (v : Byte) :
    (Memory.withByte m a v).byteAt b = if b = a then some v else Memory.byteAt m b := by
  by_cases h : b = a
  · subst h; simp
  · simp [h, Memory.byteAt_withByte_of_ne]

/-! ### The canonical form -/

theorem Memory.risesFrom_mono {lo lo' : Nat} {m : Memory} (h : Memory.risesFrom lo m = true) (hl : lo' ≤ lo) :
    Memory.risesFrom lo' m = true := by
  cases m with
  | nil => rfl
  | cons c m =>
    obtain ⟨k, w⟩ := c
    simp only [Memory.risesFrom, Bool.and_eq_true, decide_eq_true_eq] at h ⊢
    exact ⟨by omega, h.2⟩

theorem Memory.risesFrom_withByte {lo : Nat} {m : Memory} (a : Nat) (v : Byte)
    (h : Memory.risesFrom lo m = true) (hl : lo ≤ a) : Memory.risesFrom lo (Memory.withByte m a v) = true := by
  induction m generalizing lo with
  | nil => simp [Memory.withByte, Memory.risesFrom, hl]
  | cons c m ih =>
    obtain ⟨k, w⟩ := c
    simp only [Memory.risesFrom, Bool.and_eq_true, decide_eq_true_eq] at h
    simp only [Memory.withByte]
    split
    · simp only [Memory.risesFrom, Bool.and_eq_true, decide_eq_true_eq]
      exact ⟨hl, by omega, h.2⟩
    · split
      · rename_i h1 h2
        subst h2
        simp only [Memory.risesFrom, Bool.and_eq_true, decide_eq_true_eq]
        exact h
      · simp only [Memory.risesFrom, Bool.and_eq_true, decide_eq_true_eq]
        exact ⟨h.1, ih h.2 (by omega)⟩

/-- A write keeps the canonical form. -/
theorem Memory.wf_withByte {m : Memory} (a : Nat) (v : Byte) (h : Memory.wf m = true) :
    Memory.wf (Memory.withByte m a v) = true := Memory.risesFrom_withByte a v h (Nat.zero_le a)

/-- A write inside a range keeps the memory inside it. -/
theorem Memory.within_withByte {lo hi : Nat} {m : Memory} {a : Nat} (v : Byte)
    (h : Memory.within lo hi m = true) (hl : lo ≤ a) (hh : a < hi) :
    Memory.within lo hi (Memory.withByte m a v) = true := by
  simp only [Memory.within] at h ⊢
  induction m with
  | nil => simp [Memory.withByte, hl, hh]
  | cons c m ih =>
    obtain ⟨k, w⟩ := c
    simp only [List.all_cons, Bool.and_eq_true, decide_eq_true_eq] at h
    simp only [Memory.withByte]
    split
    · simp only [List.all_cons, Bool.and_eq_true, decide_eq_true_eq]
      exact ⟨⟨hl, hh⟩, h.1, h.2⟩
    · split
      · simp only [List.all_cons, Bool.and_eq_true, decide_eq_true_eq]
        exact ⟨⟨hl, hh⟩, h.2⟩
      · simp only [List.all_cons, Bool.and_eq_true, decide_eq_true_eq]
        exact ⟨h.1, ih h.2⟩

/-- Placing bytes in program memory keeps the canonical form. -/
theorem Memory.wf_placeBytes {m : Memory} (a : Nat) (bs : List Byte) (h : Memory.wf m = true) :
    Memory.wf (placeBytes m a bs) = true := by
  induction bs generalizing m a with
  | nil => exact h
  | cons b bs ih => exact ih _ (Memory.wf_withByte _ _ h)

/-- Placing bytes in program memory keeps to its 32768 byte addresses. -/
theorem Memory.within_placeBytes {m : Memory} (a : Nat) (bs : List Byte)
    (h : Memory.within 0 (2 * Config.flashWords) m = true) :
    Memory.within 0 (2 * Config.flashWords) (placeBytes m a bs) = true := by
  induction bs generalizing m a with
  | nil => exact h
  | cons b bs ih =>
    exact ih _ (Memory.within_withByte _ h (Nat.zero_le _) (Nat.mod_lt _ (by decide)))

/-- Two memories in canonical form that give every address the same byte are the same memory: the form is canonical. -/
theorem Memory.eq_of_byteAt_eq {lo : Nat} {m n : Memory} (hm : Memory.risesFrom lo m = true)
    (hn : Memory.risesFrom lo n = true) (h : ∀ a, Memory.byteAt m a = Memory.byteAt n a) : m = n := by
  have low : ∀ (l : Nat) (p : Memory), Memory.risesFrom l p = true → ∀ a, a < l → Memory.byteAt p a = none := by
    intro l p
    induction p generalizing l with
    | nil => intros; rfl
    | cons c p ih =>
      obtain ⟨k, w⟩ := c
      intro hp a ha
      simp only [Memory.risesFrom, Bool.and_eq_true, decide_eq_true_eq] at hp
      have : k ≠ a := by omega
      simp only [Memory.byteAt, this, if_false]
      exact ih _ hp.2 a (by omega)
  induction m generalizing n lo with
  | nil =>
    cases n with
    | nil => rfl
    | cons c n => obtain ⟨k, w⟩ := c; have := h k; simp [Memory.byteAt, Memory.unlisted] at this
  | cons c m ih =>
    obtain ⟨k, w⟩ := c
    cases n with
    | nil => have := h k; simp [Memory.byteAt, Memory.unlisted] at this
    | cons d n =>
      obtain ⟨j, x⟩ := d
      simp only [Memory.risesFrom, Bool.and_eq_true, decide_eq_true_eq] at hm hn
      have hk := h k
      have hj := h j
      have kj : k = j := by
        rcases Nat.lt_trichotomy k j with hlt | heq | hgt
        · have : Memory.byteAt n k = none := low _ _ hn.2 k (by omega)
          simp [Memory.byteAt, Nat.ne_of_gt hlt, this] at hk
        · exact heq
        · have : Memory.byteAt m j = none := low _ _ hm.2 j (by omega)
          simp [Memory.byteAt, Nat.ne_of_gt hgt, this] at hj
      subst kj
      have wx : w = x := by simpa [Memory.byteAt] using hk
      subst wx
      have rest : ∀ a, Memory.byteAt m a = Memory.byteAt n a := by
        intro a
        by_cases ha : a < k + 1
        · rw [low _ _ hm.2 a ha, low _ _ hn.2 a ha]
        · have := h a
          have hka : k ≠ a := by omega
          simpa [Memory.byteAt, hka] using this
      rw [ih hm.2 hn.2 rest]

/-! ### SRAM -/

@[simp] theorem State.storeSram_sramByte_self (s : State) (a : Nat) (v : Byte) :
    (s.storeSram a v).sramByte a = v := by
  simp [State.sramByte]

theorem State.storeSram_sramByte (s : State) (a b : Nat) (v : Byte) :
    (s.storeSram a v).sramByte b = if b = a then v else s.sramByte b := by
  by_cases h : b = a
  · subst h; simp
  · simp [State.sramByte, Memory.byteAt_withByte_of_ne _ _ h, h]

/-- The memories of the reset state are in canonical form. -/
theorem State.reset_memories_wf : Memory.wf State.reset.sram = true ∧ Memory.wf State.reset.program = true :=
  ⟨rfl, rfl⟩

end Sys2Proof.Machine
end

