-- ==== Sys2Proof/Laws/Ops.lean ====
section
/-! SUPPORT. For each shared operation, one lemma that says everything it can do. -/

namespace Sys2Proof.Machine

/-! ### Sequencing of results -/

@[simp] theorem andThen_next {α β : Type} (a : α) (f : α → Result β) : andThen (.next a) f = f a := rfl
@[simp] theorem andThen_fault {α β : Type} (r : Fault) (f : α → Result β) : andThen (.fault r) f = .fault r := rfl
@[simp] theorem andThen_refused {α β : Type} (r : Refusal) (f : α → Result β) : andThen (.refused r) f = .refused r := rfl

/-- A next state of a sequence comes from a next state of its first part. -/
theorem andThen_eq_next {α β : Type} {o : Result α} {f : α → Result β} {b : β} :
    andThen o f = .next b ↔ ∃ a, o = .next a ∧ f a = .next b := by
  cases o <;> simp [andThen]

/-! ### The data space -/

/-- What a read that completes gives, and the state it leaves. -/
theorem memRead_eq_next {a : DataAddr} {s t : State} {v : Byte} (h : memRead a s = .next (v, t)) :
    (dataPlace a ≠ .device ∧ t = s ∨ dataPlace a = .device ∧ t = s.record (.read a)) ∧ dataPlace a ≠ .outside := by
  unfold memRead at h
  split at h <;> simp_all

/-- Which addresses are outside the data space (R39). -/
theorem dataPlace_eq_outside {a : DataAddr} : dataPlace a = .outside ↔ 0x08FF < a.toNat := by
  unfold dataPlace
  repeat' split
  all_goals simp_all [Config.splAddr, Config.sphAddr, Config.sregAddr, Config.ramEnd]
  all_goals omega

/-- Which addresses are SRAM (R39). -/
theorem dataPlace_eq_sram {a : DataAddr} : dataPlace a = .sram ↔ 0x0100 ≤ a.toNat ∧ a.toNat ≤ 0x08FF := by
  unfold dataPlace
  repeat' split
  all_goals simp_all [Config.splAddr, Config.sphAddr, Config.sregAddr, Config.ramEnd]
  all_goals omega

/-- What a write that completes does: the one place its address names changes. -/
theorem memWrite_eq_next {a : DataAddr} {v : Byte} {s t : State} (h : memWrite a v s = .next t) :
    (∃ r, dataPlace a = .reg r ∧ t = s.setReg r v) ∨
    (dataPlace a = .spl ∧ t = s.withSp (pairOf (highByte s.sp) v)) ∨
    (dataPlace a = .sph ∧ t = s.withSp (pairOf v (lowByte s.sp))) ∨
    (dataPlace a = .sreg ∧ t = s.writeSreg v) ∨
    (dataPlace a = .device ∧ t = s.record (.write a v)) ∨
    (dataPlace a = .sram ∧ t = s.storeSram a.toNat v) := by
  unfold memWrite at h
  split at h <;> simp_all

/-- A read inside the data space completes. -/
theorem memRead_completes {a : DataAddr} (s : State) (h : a.toNat ≤ 0x08FF) :
    ∃ v t, memRead a s = .next (v, t) := by
  have : dataPlace a ≠ .outside := fun e => by have := dataPlace_eq_outside.1 e; omega
  unfold memRead
  split <;> simp_all

/-- A write inside the data space completes. -/
theorem memWrite_completes {a : DataAddr} (v : Byte) (s : State) (h : a.toNat ≤ 0x08FF) :
    ∃ t, memWrite a v s = .next t := by
  have : dataPlace a ≠ .outside := fun e => by have := dataPlace_eq_outside.1 e; omega
  unfold memWrite
  split <;> simp_all

/-- A write that completes leaves `pc`, `asleep`, the interrupt source and program memory alone. -/
theorem memWrite_frame {a : DataAddr} {v : Byte} {s t : State} (h : memWrite a v s = .next t) :
    t.pc = s.pc ∧ t.asleep = s.asleep ∧ t.irqAnswers = s.irqAnswers ∧ t.program = s.program := by
  rcases memWrite_eq_next h with ⟨r, -, rfl⟩ | ⟨-, rfl⟩ | ⟨-, rfl⟩ | ⟨-, rfl⟩ | ⟨-, rfl⟩ | ⟨-, rfl⟩ <;> simp

/-- A write that completes keeps SRAM in canonical form and inside its addresses. -/
theorem memWrite_sram {a : DataAddr} {v : Byte} {s t : State} (h : memWrite a v s = .next t)
    (hw : Memory.wf s.sram = true)
    (hr : Memory.within Config.sramStart.toNat (Config.ramEnd.toNat + 1) s.sram = true) :
    Memory.wf t.sram = true ∧
      Memory.within Config.sramStart.toNat (Config.ramEnd.toNat + 1) t.sram = true := by
  rcases memWrite_eq_next h with ⟨r, -, rfl⟩ | ⟨-, rfl⟩ | ⟨-, rfl⟩ | ⟨-, rfl⟩ | ⟨-, rfl⟩ | ⟨hp, rfl⟩
  case inr.inr.inr.inr.inr =>
    obtain ⟨hlo, hhi⟩ := dataPlace_eq_sram.1 hp
    exact ⟨Memory.wf_withByte _ _ hw,
      Memory.within_withByte _ hr hlo (by simpa [Config.ramEnd] using Nat.lt_succ_of_le hhi)⟩
  all_goals exact ⟨hw, hr⟩

/-! ### Program memory -/

theorem programByte_eq_next {a : Nat} {s : State} {b : Byte} :
    programByte a s = .next b ↔ Memory.byteAt s.program a = some b := by
  unfold programByte
  split <;> simp_all

theorem programWord_eq_next {a : ProgAddr} {s : State} {w : Word} :
    programWord a s = .next w ↔ ∃ b0 b1, Memory.byteAt s.program (2 * a.toNat) = some b0 ∧
      Memory.byteAt s.program (2 * a.toNat + 1) = some b1 ∧ wordOfBytes b0 b1 = w := by
  simp only [programWord, andThen_eq_next, programByte_eq_next]
  constructor
  · rintro ⟨b0, h0, b1, h1, h⟩; exact ⟨b0, b1, h0, h1, by simpa using h⟩
  · rintro ⟨b0, b1, h0, h1, h⟩; exact ⟨b0, h0, b1, h1, by simp [h]⟩

/-- What a fetch that completes found. -/
theorem fetch_eq_next {s : State} {i : Instr} (h : fetch s = .next i) :
    ∃ w w2, programWord s.pc s = .next w ∧
      (ilen w = 2 ∧ programWord (s.pc + 1#14) s = .next w2 ∨ ilen w ≠ 2 ∧ w2 = 0#16) ∧
      decodeWords w w2 = .ok i := by
  obtain ⟨w, hw, h⟩ := andThen_eq_next.1 h
  refine ⟨w, ?_⟩
  by_cases hl : ilen w = 2
  · simp only [hl, if_true] at h
    obtain ⟨w2, hw2, h⟩ := andThen_eq_next.1 h
    refine ⟨w2, hw, .inl ⟨hl, hw2⟩, ?_⟩
    unfold decoded at h
    split at h <;> simp_all
  · simp only [hl, if_false] at h
    refine ⟨0#16, hw, .inr ⟨hl, rfl⟩, ?_⟩
    unfold decoded at h
    split at h <;> simp_all

/-! ### Skips and absolute targets -/

theorem skipNext_eq_next {s t : State} :
    skipNext s = .next t ↔ ∃ w, programWord (s.pc + 1#14) s = .next w ∧ t = s.advance (1 + ilen w) := by
  simp only [skipNext, andThen_eq_next, Host.Outcome.next.injEq]
  constructor <;> rintro ⟨w, h, rfl⟩ <;> exact ⟨w, h, rfl⟩

theorem skipIf_eq_next {c : Bool} {s t : State} (h : skipIf c s = .next t) :
    ∃ n, t = s.advance n := by
  unfold skipIf at h
  split at h
  · obtain ⟨w, -, rfl⟩ := skipNext_eq_next.1 h; exact ⟨_, rfl⟩
  · exact ⟨1, by simpa using h.symm⟩

theorem absoluteTarget_eq_next {n : Nat} {s : State} {a : ProgAddr} :
    absoluteTarget n s = .next a ↔ n < 0x4000 ∧ a = BitVec.ofNat 14 n := by
  have e0 : Config.flashWords = 0x4000 := rfl
  by_cases h : n < 0x4000
  · rw [absoluteTarget, e0, if_pos h]
    exact ⟨fun e => ⟨h, (Host.Outcome.next.inj e).symm⟩, fun e => by rw [e.2]⟩
  · rw [absoluteTarget, e0, if_neg h]
    exact ⟨nofun, fun e => absurd e.1 h⟩

/-! ### The stack and interrupts -/

theorem pushByte_eq_next {v : Byte} {s t : State} :
    pushByte v s = .next t ↔ ∃ u, memWrite s.sp v s = .next u ∧ t = u.withSp (u.sp - 1#16) := by
  simp only [pushByte, andThen_eq_next, Host.Outcome.next.injEq]
  constructor <;> rintro ⟨u, h, rfl⟩ <;> exact ⟨u, h, rfl⟩

theorem pushReturn_eq_next {ra : ProgAddr} {s t : State} :
    pushReturn ra s = .next t ↔ ∃ u, pushByte (lowByte (ra.setWidth 16)) s = .next u ∧
      pushByte (highByte (ra.setWidth 16)) u = .next t := andThen_eq_next

/-- A push leaves `pc`, `asleep`, the interrupt source and program memory alone. -/
theorem pushByte_frame {v : Byte} {s t : State} (h : pushByte v s = .next t) :
    t.pc = s.pc ∧ t.asleep = s.asleep ∧ t.irqAnswers = s.irqAnswers ∧ t.program = s.program := by
  obtain ⟨u, hu, rfl⟩ := pushByte_eq_next.1 h
  simpa using memWrite_frame hu

theorem pushReturn_frame {ra : ProgAddr} {s t : State} (h : pushReturn ra s = .next t) :
    t.pc = s.pc ∧ t.asleep = s.asleep ∧ t.irqAnswers = s.irqAnswers ∧ t.program = s.program := by
  obtain ⟨u, hu, ht⟩ := pushReturn_eq_next.1 h
  have h1 := pushByte_frame hu
  have h2 := pushByte_frame ht
  exact ⟨h2.1.trans h1.1, h2.2.1.trans h1.2.1, h2.2.2.1.trans h1.2.2.1, h2.2.2.2.trans h1.2.2.2⟩

/-- A pop that completes moves SP, and records the read of a device. -/
theorem popByte_eq_next {s t : State} {v : Byte} (h : popByte s = .next (v, t)) :
    dataPlace (s.sp + 1#16) ≠ .device ∧ t = s.withSp (s.sp + 1#16) ∨
    dataPlace (s.sp + 1#16) = .device ∧ t = (s.withSp (s.sp + 1#16)).record (.read (s.sp + 1#16)) :=
  (memRead_eq_next h).1

/-- A return that completes: two pops, a target in range, then `pc`. -/
theorem popReturn_eq_next {s t : State} (h : popReturn s = .next t) :
    ∃ hi s1 lo s2, popByte s = .next (hi, s1) ∧ popByte s1 = .next (lo, s2) ∧
      (pairOf hi lo).toNat < 0x4000 ∧ t = s2.withPc (BitVec.ofNat 14 (pairOf hi lo).toNat) := by
  obtain ⟨⟨hi, s1⟩, h1, h⟩ := andThen_eq_next.1 h
  obtain ⟨⟨lo, s2⟩, h2, h⟩ := andThen_eq_next.1 h
  obtain ⟨a, ha, h⟩ := andThen_eq_next.1 h
  obtain ⟨hl, rfl⟩ := absoluteTarget_eq_next.1 ha
  exact ⟨hi, s1, lo, s2, h1, h2, hl, by simpa using h.symm⟩

/-- An interrupt entry that completes: the return address pushed, then I, `asleep` and `pc`. -/
theorem interruptEntry_eq_next {v : IrqVector} {s t : State} :
    interruptEntry v s = .next t ↔ ∃ u, pushReturn s.pc s = .next u ∧
      t = { u with sreg := setBit u.sreg 7#3 false, asleep := false, pc := vectorAddr v } := by
  simp only [interruptEntry, andThen_eq_next, Host.Outcome.next.injEq]
  constructor <;> rintro ⟨u, h, rfl⟩ <;> exact ⟨u, h, rfl⟩

theorem interruptReturn_eq_next {s t : State} :
    interruptReturn s = .next t ↔ ∃ u, popReturn s = .next u ∧ t = u.writeSreg (setBit u.sreg 7#3 true) := by
  simp only [interruptReturn, andThen_eq_next, Host.Outcome.next.injEq]
  constructor <;> rintro ⟨u, h, rfl⟩ <;> exact ⟨u, h, rfl⟩

/-- The acceptance test changes the state in the source's answers only. -/
theorem acceptanceTest_snd (s : State) :
    (acceptanceTest s).2 = { s with irqAnswers := (acceptanceTest s).2.irqAnswers } := by
  unfold acceptanceTest State.poll
  split
  · split <;> rfl
  · rfl

end Sys2Proof.Machine
end

