-- ==== Sys2Proof/Laws/Data.lean ====
section
/-! SUPPORT. Reads and writes of the data space in the terms of `State.dataByte`, `State.readByte` and `ByteStored`. -/

namespace Sys2Proof.Machine

/-- Two addresses that lead to the same single byte of state are the same address. -/
theorem dataPlace_inj {a b : DataAddr} (h : dataPlace a = dataPlace b) (hs : dataPlace a ≠ .sram)
    (hd : dataPlace a ≠ .device) (ho : dataPlace a ≠ .outside) : a = b := by
  revert h hs hd ho
  unfold dataPlace
  repeat' split
  all_goals simp_all [Config.splAddr, Config.sphAddr, Config.sregAddr, Config.ramEnd]
  intro h
  have := congrArg BitVec.toNat h
  simp at this
  apply BitVec.eq_of_toNat_eq
  omega

theorem dataPlace_eq_spl {a : DataAddr} : dataPlace a = .spl ↔ a = Config.splAddr := by
  constructor
  · intro h; exact dataPlace_inj (by rw [h]; rfl) (by simp [h]) (by simp [h]) (by simp [h])
  · rintro rfl; rfl

theorem dataPlace_eq_sph {a : DataAddr} : dataPlace a = .sph ↔ a = Config.sphAddr := by
  constructor
  · intro h; exact dataPlace_inj (by rw [h]; rfl) (by simp [h]) (by simp [h]) (by simp [h])
  · rintro rfl; rfl

theorem dataPlace_eq_sreg {a : DataAddr} : dataPlace a = .sreg ↔ a = Config.sregAddr := by
  constructor
  · intro h; exact dataPlace_inj (by rw [h]; rfl) (by simp [h]) (by simp [h]) (by simp [h])
  · rintro rfl; rfl

theorem dataPlace_ne_outside {a : DataAddr} (h : a.toNat ≤ 0x08FF) : dataPlace a ≠ .outside := fun e => by
  have := dataPlace_eq_outside.1 e
  omega

/-- A read inside the data space, once and for all. -/
theorem memRead_inside (s : State) {a : DataAddr} (h : a.toNat ≤ 0x08FF) :
    memRead a s = .next (s.readByte a, s.afterRead a) := by
  have hp := dataPlace_ne_outside h
  unfold memRead State.readByte State.dataByte State.afterRead State.eventsAfterRead
  split <;> simp_all [State.record]

/-- A read above 0x08FF faults. -/
theorem memRead_outside (s : State) {a : DataAddr} (h : 0x08FF < a.toNat) :
    memRead a s = .fault (.dataAddressOutOfRange s.pc a .read) := by
  simp [memRead, dataPlace_eq_outside.2 h]

/-- A write above 0x08FF faults. -/
theorem memWrite_outside (s : State) {a : DataAddr} (v : Byte) (h : 0x08FF < a.toNat) :
    memWrite a v s = .fault (.dataAddressOutOfRange s.pc a .write) := by
  simp [memWrite, dataPlace_eq_outside.2 h]

/-- What every byte of the data space is after a write that completes. -/
theorem memWrite_dataByte {a : DataAddr} {v : Byte} {s t : State} (h : memWrite a v s = .next t) :
    (dataPlace a ≠ .device → t.dataByte a = some v) ∧ ∀ b, b ≠ a → t.dataByte b = s.dataByte b := by
  rcases memWrite_eq_next h with ⟨r, hp, rfl⟩ | ⟨hp, rfl⟩ | ⟨hp, rfl⟩ | ⟨hp, rfl⟩ | ⟨hp, rfl⟩ | ⟨hp, rfl⟩
  all_goals
    refine ⟨?_, ?_⟩
    · simp [State.dataByte, hp]
    · intro b hb
      simp only [State.dataByte]
      have := fun h1 => dataPlace_inj (a := a) (b := b) h1
      split <;> simp_all [State.setReg_reg, State.storeSram_sramByte]
      try (intro hh; subst hh; simp_all)
      try (intro hh; exact absurd (BitVec.eq_of_toNat_eq hh) hb)

/-- A write inside the data space completes; the byte, SP, the events and `irqInhibit` after it, and its frame. -/
theorem memWrite_inside (s : State) {a : DataAddr} (v : Byte) (h : a.toNat ≤ 0x08FF) :
    ∃ t, memWrite a v s = .next t ∧ ByteStored s t a v [] ∧ t.pc = s.pc ∧
      t.sp = if a = Config.splAddr then pairOf (highByte s.sp) v
        else if a = Config.sphAddr then pairOf v (lowByte s.sp) else s.sp := by
  obtain ⟨t, ht⟩ := memWrite_completes v s h
  have h1 := memWrite_dataByte ht
  have h2 := memWrite_frame ht
  refine ⟨t, ht, ⟨fun hd _ => h1.1 hd, ⟨fun b hb => h1.2 b (by simpa using hb), fun b => by rw [h2.2.2.2],
    h2.2.1, h2.2.2.1⟩, ?_, ?_⟩, h2.1, ?_⟩
  · rcases memWrite_eq_next ht with ⟨r, hp, rfl⟩ | ⟨hp, rfl⟩ | ⟨hp, rfl⟩ | ⟨hp, rfl⟩ | ⟨hp, rfl⟩ | ⟨hp, rfl⟩ <;>
      simp [State.eventsAfterWrite, hp]
  · have ha := dataPlace_eq_sreg (a := a)
    rcases memWrite_eq_next ht with ⟨r, hp, rfl⟩ | ⟨hp, rfl⟩ | ⟨hp, rfl⟩ | ⟨hp, rfl⟩ | ⟨hp, rfl⟩ | ⟨hp, rfl⟩ <;>
      simp [State.inhibitAfterWrite] <;> simp_all
  · have hl := dataPlace_eq_spl (a := a)
    have hh := dataPlace_eq_sph (a := a)
    rcases memWrite_eq_next ht with ⟨r, hp, rfl⟩ | ⟨hp, rfl⟩ | ⟨hp, rfl⟩ | ⟨hp, rfl⟩ | ⟨hp, rfl⟩ | ⟨hp, rfl⟩ <;>
      simp [hp] at hl hh <;> simp [hl, hh] <;> simp [Config.splAddr, Config.sphAddr]

/-- Moving `pc` on changes no byte of the data space. -/
@[simp] theorem State.advance_dataByte (s : State) (n : Nat) (a : DataAddr) :
    (s.advance n).dataByte a = s.dataByte a := rfl

@[simp] theorem State.withPc_dataByte (s : State) (p : ProgAddr) (a : DataAddr) :
    (s.withPc p).dataByte a = s.dataByte a := rfl

/-- A change of SP changes the bytes SPL and SPH alone. -/
theorem State.withSp_dataByte (s : State) (v : Word) {a : DataAddr} (h : a ∉ [Config.splAddr, Config.sphAddr]) :
    (s.withSp v).dataByte a = s.dataByte a := by
  have hl := dataPlace_eq_spl (a := a)
  have hh := dataPlace_eq_sph (a := a)
  unfold State.dataByte
  split <;> simp_all

@[simp] theorem State.afterRead_dataByte (s : State) (a b : DataAddr) : (s.afterRead a).dataByte b = s.dataByte b := rfl

/-! ## The stack -/

/-- A push inside the data space, once and for all. -/
theorem pushByte_inside (s : State) (v : Byte) (h : s.sp.toNat ≤ 0x08FF) :
    ∃ t, pushByte v s = .next t ∧ t.sp = spAfterStore s.sp v - 1#16 ∧ t.pc = s.pc ∧
      ByteStored s t s.sp v [Config.splAddr, Config.sphAddr] := by
  obtain ⟨t, ht, hs, hpc, hsp⟩ := memWrite_inside s v h
  refine ⟨t.withSp (t.sp - 1#16), by simp [pushByte, ht], by simp [hsp, spAfterStore], by simp [hpc], ?_⟩
  obtain ⟨h1, ⟨h2, h3, h4, h5⟩, h6, h7⟩ := hs
  refine ⟨fun hd hn => (State.withSp_dataByte _ _ hn).trans (h1 hd (by simp)), ⟨fun b hn => ?_, h3, h4, h5⟩, h6, h7⟩
  simp only [List.mem_cons, not_or] at hn
  exact (State.withSp_dataByte _ _ (by simp [hn])).trans (h2 b (by simp [hn]))

theorem raHigh_bit7 (ra : ProgAddr) : (raHigh ra).getLsbD 7 = false := by simp [raHigh, highByte]

/-- The pushes of a return address inside the data space, once and for all. -/
theorem pushReturn_inside (s : State) (ra : ProgAddr) (h : s.canPush ra) :
    ∃ t, pushReturn ra s = .next t ∧ t.pc = s.pc ∧ ReturnPushed s t ra := by
  obtain ⟨h1, h2⟩ := h
  obtain ⟨u, hu, husp, hupc, hus⟩ := pushByte_inside s (raLow ra) h1
  have e : u.sp = s.highPushAt ra := by rw [husp]; rfl
  obtain ⟨t, ht, htsp, htpc, hts⟩ := pushByte_inside u (raHigh ra) (by rw [e]; exact h2)
  refine ⟨t, by simp only [pushReturn]; rw [show lowByte _ = raLow ra from rfl, hu]; exact ht, htpc.trans hupc, ?_⟩
  rw [e] at hts htsp
  refine ⟨?_, fun hd hn => hts.stored hd hn, htsp, ⟨?_, ?_, hts.frame.asleep.trans hus.frame.asleep,
    hts.frame.irqAnswers.trans hus.frame.irqAnswers⟩, ?_, ?_⟩
  · intro hd hn
    rw [hts.frame.bytes _ ?_]
    · exact hus.stored hd hn
    · intro hm
      simp only [List.mem_cons, List.not_mem_nil, or_false, not_or] at hm hn
      rcases hm with hm | hm | hm
      · rw [State.highPushAt, spAfterStore, if_neg hn.1, if_neg hn.2] at hm
        have := congrArg BitVec.toNat hm
        simp [BitVec.toNat_sub] at this
        have := s.sp.isLt
        omega
      · exact hn.1 hm
      · exact hn.2 hm
  · intro a ha
    simp only [List.mem_cons, List.not_mem_nil, or_false, not_or] at ha
    rw [hts.frame.bytes a (by simp [ha]), hus.frame.bytes a (by simp [ha])]
  · intro a; rw [hts.frame.program, hus.frame.program]
  · rw [hts.events, State.eventsAfterWrite, hus.events]
  · rw [hts.irqInhibit, State.inhibitAfterWrite, hus.irqInhibit, raHigh_bit7]
    simp

/-- Pushes of a return address that complete stayed inside the data space. -/
theorem canPush_of_pushReturn {s t : State} {ra : ProgAddr} (h : pushReturn ra s = .next t) : s.canPush ra := by
  by_cases h1 : s.sp.toNat ≤ 0x08FF
  · obtain ⟨u, hu, husp, -, -⟩ := pushByte_inside s (raLow ra) h1
    have e : u.sp = s.highPushAt ra := by rw [husp]; rfl
    simp only [pushReturn] at h
    rw [show lowByte _ = raLow ra from rfl, hu, andThen_next] at h
    refine ⟨h1, Nat.le_of_not_lt fun h2 => ?_⟩
    rw [← e] at h2
    simp [pushByte, memWrite_outside _ _ h2] at h
  · simp [pushReturn, pushByte, memWrite_outside _ _ (Nat.lt_of_not_le h1)] at h

/-- All that pushes of a return address that complete do. -/
theorem pushReturn_pushed {s t : State} {ra : ProgAddr} (h : pushReturn ra s = .next t) :
    t.pc = s.pc ∧ ReturnPushed s t ra := by
  obtain ⟨u, hu, h1, h2⟩ := pushReturn_inside s ra (canPush_of_pushReturn h)
  rw [hu] at h
  cases h
  exact ⟨h1, h2⟩

/-- A push of a return address whose low byte would go above 0x08FF faults there. -/
theorem pushReturn_low_outside {s : State} (ra : ProgAddr) (h : 0x08FF < s.sp.toNat) :
    pushReturn ra s = .fault (.dataAddressOutOfRange s.pc s.sp .write) := by
  rw [pushReturn, pushByte, memWrite_outside _ _ h, andThen_fault, andThen_fault]

/-- A push of a return address whose high byte alone would go above 0x08FF faults there. -/
theorem pushReturn_high_outside {s : State} (ra : ProgAddr) (h1 : s.sp.toNat ≤ 0x08FF)
    (h2 : 0x08FF < (s.highPushAt ra).toNat) :
    pushReturn ra s = .fault (.dataAddressOutOfRange s.pc (s.highPushAt ra) .write) := by
  obtain ⟨u, hu, husp, hupc, -⟩ := pushByte_inside s (raLow ra) h1
  have e : u.sp = s.highPushAt ra := by rw [husp]; rfl
  rw [← e] at h2 ⊢
  rw [pushReturn, show lowByte _ = raLow ra from rfl, hu, andThen_next, pushByte, memWrite_outside _ _ h2, hupc]
  rfl

/-- A step that accepts an interrupt is its entry, the source having answered and been told. -/
theorem step_accepted {s : State} {v : IrqVector} (h : (acceptanceTest s).1 = some v) :
    step s = interruptEntry v
      { s with irqAnswers := (acceptanceTest s).2.irqAnswers, events := .irqAck v :: s.events } := by
  have e := acceptanceTest_snd s
  rw [step, show acceptanceTest s = (some v, (acceptanceTest s).2) from Prod.ext h rfl]
  change interruptEntry v ((acceptanceTest s).2.record (.irqAck v)) = _
  rw [e]
  rfl

@[simp] theorem State.afterPop_sp (s : State) : s.afterPop.sp = s.sp + 1#16 := rfl
@[simp] theorem State.afterPop_pc (s : State) : s.afterPop.pc = s.pc := rfl
@[simp] theorem State.afterPop_sreg (s : State) : s.afterPop.sreg = s.sreg := rfl
@[simp] theorem State.afterPop_reg (s : State) (q : Reg) : s.afterPop.reg q = s.reg q := rfl
@[simp] theorem State.afterPop_sramByte (s : State) (x : Nat) : s.afterPop.sramByte x = s.sramByte x := rfl

/-- After one pop the next one reads at two above the old SP. -/
theorem State.afterPop_sp_next (s : State) : s.afterPop.sp + 1#16 = s.sp + 2#16 := by
  simp [BitVec.add_assoc]

/-- A pop inside the data space. -/
theorem popByte_inside (s : State) (h : (s.sp + 1#16).toNat ≤ 0x08FF) :
    popByte s = .next (s.poppedByte, s.afterPop) := memRead_inside _ h

/-- A pop above 0x08FF faults. -/
theorem popByte_outside (s : State) (h : 0x08FF < (s.sp + 1#16).toNat) :
    popByte s = .fault (.dataAddressOutOfRange s.pc (s.sp + 1#16) .read) := memRead_outside _ h

/-- A pop of anything but SPL and SPH reads what any other read of the address reads. -/
theorem State.poppedByte_eq_readByte (s : State) (h : s.sp + 1#16 ∉ [Config.splAddr, Config.sphAddr]) :
    s.poppedByte = s.readByte (s.sp + 1#16) := by
  rw [State.poppedByte, State.readByte, State.withSp_dataByte _ _ h]
  rfl

/-- A return whose two bytes are inside the data space and whose target is in program memory. -/
theorem popReturn_inside {s : State} (h1 : (s.sp + 1#16).toNat ≤ 0x08FF) (h2 : (s.sp + 2#16).toNat ≤ 0x08FF)
    (h3 : s.poppedWord.toNat < 0x4000) :
    popReturn s = .next (s.afterPop.afterPop.withPc (BitVec.ofNat 14 s.poppedWord.toNat)) := by
  have e : absoluteTarget s.poppedWord.toNat s.afterPop.afterPop = .next (BitVec.ofNat 14 s.poppedWord.toNat) :=
    absoluteTarget_eq_next.2 ⟨h3, rfl⟩
  rw [← s.afterPop_sp_next] at h2
  simp only [popReturn, popByte_inside _ h1, popByte_inside _ h2, andThen_next]
  change andThen (absoluteTarget s.poppedWord.toNat s.afterPop.afterPop) _ = _
  rw [e]
  rfl

/-! ## The shapes of the loads and stores -/

/-- A load inside the data space. -/
theorem loadAt_inside (d : Reg) {a : DataAddr} (n : Nat) (s : State) (h : a.toNat ≤ 0x08FF) :
    loadAt d a n s = .next (((s.afterRead a).setReg d (s.readByte a)).advance n) := by
  rw [loadAt, memRead_inside s h, andThen_next]

/-- A load with pointer update inside the data space, for a data register that is not the pointer's. -/
theorem loadUpdate_inside (w : Word) (u : Update) (p : Pointer) (d : Reg) (s : State) (hd : p.owns d = false)
    (h : (updateAddr u p s).toNat ≤ 0x08FF) :
    loadUpdate w u p d s = .next ((((s.afterRead (updateAddr u p s)).setPointer p (updatedPointer u p s)).setReg d
      (s.readByte (updateAddr u p s))).advance 1) := by
  rw [loadUpdate, if_neg (by simp [hd]), memRead_inside s h, andThen_next]

/-- A store that completes is the write and the advance of `pc`. -/
theorem storeAt_eq_next {a : DataAddr} {r : Reg} {n : Nat} {s t : State} :
    storeAt a r n s = .next t ↔ ∃ u, memWrite a (s.reg r) s = .next u ∧ t = u.advance n := by
  rw [storeAt, andThen_eq_next]
  constructor
  · rintro ⟨u, hu, h⟩; cases h; exact ⟨u, hu, rfl⟩
  · rintro ⟨u, hu, rfl⟩; exact ⟨u, hu, rfl⟩

/-- A store with pointer update that completes is the write, the update of the pointer and the advance of `pc`. -/
theorem storeUpdate_eq_next {w : Word} {u : Update} {p : Pointer} {r : Reg} {s t : State}
    (h : storeUpdate w u p r s = .next t) :
    p.owns r = false ∧ ∃ v, memWrite (updateAddr u p s) (s.reg r) s = .next v ∧
      t = (v.setPointer p (updatedPointer u p s)).advance 1 := by
  cases hp : p.owns r
  · rw [storeUpdate, if_neg (by simp [hp]), andThen_eq_next] at h
    obtain ⟨v, hv, h⟩ := h
    cases h
    exact ⟨rfl, v, hv, rfl⟩
  · rw [storeUpdate, if_pos hp] at h
    cases h

end Sys2Proof.Machine
end

