-- ==== Sys2Proof/Tests/Slice0.lean ====
section
/-! SUPPORT. The model's own tests. Decoding: one word of every constructor, written out bit by bit from the encoding
tables of spec/30_encoding.md. WellFormed: one ill-formed term for each check. One-step tests: the vectors of
spec/95_vectors.md, whose expected results stand there. Witnesses: for every statement with hypotheses, a concrete state
and operands that meet them. -/

namespace Sys2Proof.Tests

open Sys2Proof.Machine

/-! ## Small states -/

/-- A state with the given `pc`, SREG and SP, registers (zero where not given), SRAM bytes and program words. -/
def start (pc sreg sp : Nat) (regs sram : List (Nat × Nat)) (words : List (Nat × List Nat)) : State :=
  let blank : State :=
    { regs := Vector.replicate 32 0#8, pc := BitVec.ofNat 14 pc, sreg := BitVec.ofNat 8 sreg, sp := BitVec.ofNat 16 sp,
      sram := [], program := [], irqInhibit := false, asleep := false, irqAnswers := [], events := [] }
  let withRegs := regs.foldl (fun s c => s.setReg (BitVec.ofNat 5 c.1) (BitVec.ofNat 8 c.2)) blank
  let withSram := sram.foldl (fun s c => s.storeSram c.1 (BitVec.ofNat 8 c.2)) withRegs
  { withSram with
    program := words.foldl
      (fun p c => placeBytes p (2 * c.1) (c.2.flatMap fun w => [BitVec.ofNat 8 w, BitVec.ofNat 8 (w / 256)])) [] }

/-- What a test looks at: `pc`, SREG, SP, `irqInhibit`, and the registers and SRAM bytes asked for. -/
structure Seen where
  pc : Nat
  sreg : Nat
  sp : Nat
  irqInhibit : Bool
  regs : List Nat
  sram : List (Option Nat)
  deriving DecidableEq, Repr

/-- What one step makes of a state, if it has a next state. -/
def after (s : State) (regs sram : List Nat) : Option Seen :=
  match step s with
  | .next t => some ⟨t.pc.toNat, t.sreg.toNat, t.sp.toNat, t.irqInhibit,
      regs.map fun r => (t.reg (BitVec.ofNat 5 r)).toNat, sram.map fun a => (Memory.byteAt t.sram a).map BitVec.toNat⟩
  | _ => none

/-- The fault one step ends in, if it does. -/
def faultOf (s : State) : Option Fault :=
  match step s with
  | .fault r => some r
  | _ => none

/-- The instruction of two words, if the first is not reserved. -/
def dec (w w2 : Word) : Option Instr := (decodeWords w w2).toOption

/-! ## Decoding -/

/-- Format Z0, words written out from the patterns of spec/30_encoding.md for 48_mcu_control.md. -/
theorem test_decode_Z0_mcu_control :
    dec 0b0000_0000_0000_0000#16 0#16 = some .nop ∧
    dec 0b1001_0101_1000_1000#16 0#16 = some .sleep ∧
    dec 0b1001_0101_1001_1000#16 0#16 = some .brk ∧
    dec 0b1001_0101_1010_1000#16 0#16 = some .wdr := by decide

/-- Format R4, words written out from the patterns of spec/30_encoding.md for 41_two_register.md. -/
theorem test_decode_R4_two_register :
    dec 0b0000_0001_0110_1011#16 0#16 = some (.movw 12#5 22#5) := by decide

/-- Format R4, words written out from the patterns of spec/30_encoding.md for 42_multiply.md. -/
theorem test_decode_R4_multiply :
    dec 0b0000_0010_0110_1011#16 0#16 = some (.muls 22#5 27#5) := by decide

/-- Format R3, words written out from the patterns of spec/30_encoding.md for 42_multiply.md. -/
theorem test_decode_R3_multiply :
    dec 0b0000_0011_0110_0011#16 0#16 = some (.mulsu 22#5 19#5) ∧
    dec 0b0000_0011_0110_1011#16 0#16 = some (.fmul 22#5 19#5) ∧
    dec 0b0000_0011_1110_0011#16 0#16 = some (.fmuls 22#5 19#5) ∧
    dec 0b0000_0011_1110_1011#16 0#16 = some (.fmulsu 22#5 19#5) := by decide

/-- Format RR, words written out from the patterns of spec/30_encoding.md for 41_two_register.md. -/
theorem test_decode_RR_two_register :
    dec 0b0000_0111_0010_0101#16 0#16 = some (.cpc 18#5 21#5) ∧
    dec 0b0000_1011_0010_0101#16 0#16 = some (.sbc 18#5 21#5) ∧
    dec 0b0000_1111_0010_0101#16 0#16 = some (.add 18#5 21#5) ∧
    dec 0b0001_0011_0010_0101#16 0#16 = some (.cpse 18#5 21#5) ∧
    dec 0b0001_0111_0010_0101#16 0#16 = some (.cp 18#5 21#5) ∧
    dec 0b0001_1011_0010_0101#16 0#16 = some (.sub 18#5 21#5) ∧
    dec 0b0001_1111_0010_0101#16 0#16 = some (.adc 18#5 21#5) ∧
    dec 0b0010_0011_0010_0101#16 0#16 = some (.and 18#5 21#5) ∧
    dec 0b0010_0111_0010_0101#16 0#16 = some (.eor 18#5 21#5) ∧
    dec 0b0010_1011_0010_0101#16 0#16 = some (.or 18#5 21#5) ∧
    dec 0b0010_1111_0010_0101#16 0#16 = some (.mov 18#5 21#5) := by decide

/-- Format I8, words written out from the patterns of spec/30_encoding.md for 44_direct_sram_and_immediate.md. -/
theorem test_decode_I8_direct_sram_and_immediate :
    dec 0b0011_1010_0110_0011#16 0#16 = some (.cpi 22#5 0xA3#8) ∧
    dec 0b0100_1010_0110_0011#16 0#16 = some (.sbci 22#5 0xA3#8) ∧
    dec 0b0101_1010_0110_0011#16 0#16 = some (.subi 22#5 0xA3#8) ∧
    dec 0b0110_1010_0110_0011#16 0#16 = some (.ori 22#5 0xA3#8) ∧
    dec 0b0111_1010_0110_0011#16 0#16 = some (.andi 22#5 0xA3#8) ∧
    dec 0b1110_1010_0110_0011#16 0#16 = some (.ldi 22#5 0xA3#8) := by decide

/-- Format DQ, words written out from the patterns of spec/30_encoding.md for 45_sram_indirect.md. -/
theorem test_decode_DQ_sram_indirect :
    dec 0b1010_0101_0010_0101#16 0#16 = some (.lddZ 18#5 0b101101#6) ∧
    dec 0b1010_0101_0010_1101#16 0#16 = some (.lddY 18#5 0b101101#6) ∧
    dec 0b1010_0111_0101_0101#16 0#16 = some (.stdZ 0b101101#6 21#5) ∧
    dec 0b1010_0111_0101_1101#16 0#16 = some (.stdY 0b101101#6 21#5) := by decide

/-- Format DS, words written out from the patterns of spec/30_encoding.md for 44_direct_sram_and_immediate.md. -/
theorem test_decode_DS_direct_sram_and_immediate :
    dec 0b1001_0001_0010_0000#16 0x0103#16 = some (.lds 18#5 0x0103#16) ∧
    dec 0b1001_0011_0101_0000#16 0x0103#16 = some (.sts 0x0103#16 21#5) := by decide

/-- Format LS, words written out from the patterns of spec/30_encoding.md for 45_sram_indirect.md. -/
theorem test_decode_LS_sram_indirect :
    dec 0b1001_0001_0010_0001#16 0#16 = some (.ldZInc 18#5) ∧
    dec 0b1001_0001_0010_0010#16 0#16 = some (.ldZDec 18#5) ∧
    dec 0b1001_0001_0010_1001#16 0#16 = some (.ldYInc 18#5) ∧
    dec 0b1001_0001_0010_1010#16 0#16 = some (.ldYDec 18#5) ∧
    dec 0b1001_0001_0010_1100#16 0#16 = some (.ldX 18#5) ∧
    dec 0b1001_0001_0010_1101#16 0#16 = some (.ldXInc 18#5) ∧
    dec 0b1001_0001_0010_1110#16 0#16 = some (.ldXDec 18#5) ∧
    dec 0b1001_0001_0010_1111#16 0#16 = some (.pop 18#5) ∧
    dec 0b1001_0011_0101_0001#16 0#16 = some (.stZInc 21#5) ∧
    dec 0b1001_0011_0101_0010#16 0#16 = some (.stZDec 21#5) ∧
    dec 0b1001_0011_0101_1001#16 0#16 = some (.stYInc 21#5) ∧
    dec 0b1001_0011_0101_1010#16 0#16 = some (.stYDec 21#5) ∧
    dec 0b1001_0011_0101_1100#16 0#16 = some (.stX 21#5) ∧
    dec 0b1001_0011_0101_1101#16 0#16 = some (.stXInc 21#5) ∧
    dec 0b1001_0011_0101_1110#16 0#16 = some (.stXDec 21#5) ∧
    dec 0b1001_0011_0101_1111#16 0#16 = some (.push 21#5) := by decide

/-- Format LS, words written out from the patterns of spec/30_encoding.md for 46_program_memory.md. -/
theorem test_decode_LS_program_memory :
    dec 0b1001_0001_0010_0100#16 0#16 = some (.lpmZ 18#5) ∧
    dec 0b1001_0001_0010_0101#16 0#16 = some (.lpmZInc 18#5) := by decide

/-- Format SR, words written out from the patterns of spec/30_encoding.md for 40_single_register.md. -/
theorem test_decode_SR_single_register :
    dec 0b1001_0101_0010_0000#16 0#16 = some (.com 18#5) ∧
    dec 0b1001_0101_0010_0001#16 0#16 = some (.neg 18#5) ∧
    dec 0b1001_0101_0010_0010#16 0#16 = some (.swap 18#5) ∧
    dec 0b1001_0101_0010_0011#16 0#16 = some (.inc 18#5) ∧
    dec 0b1001_0101_0010_0101#16 0#16 = some (.asr 18#5) ∧
    dec 0b1001_0101_0010_0110#16 0#16 = some (.lsr 18#5) ∧
    dec 0b1001_0101_0010_0111#16 0#16 = some (.ror 18#5) ∧
    dec 0b1001_0101_0010_1010#16 0#16 = some (.dec 18#5) := by decide

/-- Format SF, words written out from the patterns of spec/30_encoding.md for 43_io_direct.md. -/
theorem test_decode_SF_io_direct :
    dec 0b1001_0100_0110_1000#16 0#16 = some (.bset 6#3) ∧
    dec 0b1001_0100_1110_1000#16 0#16 = some (.bclr 6#3) := by decide

/-- Format Z0, words written out from the patterns of spec/30_encoding.md for 47_control_transfer.md. -/
theorem test_decode_Z0_control_transfer :
    dec 0b1001_0100_0000_1001#16 0#16 = some .ijmp ∧
    dec 0b1001_0100_0001_1001#16 0#16 = some .eijmp ∧
    dec 0b1001_0101_0000_1000#16 0#16 = some .ret ∧
    dec 0b1001_0101_0000_1001#16 0#16 = some .icall ∧
    dec 0b1001_0101_0001_1000#16 0#16 = some .reti ∧
    dec 0b1001_0101_0001_1001#16 0#16 = some .eicall := by decide

/-- Format Z0, words written out from the patterns of spec/30_encoding.md for 46_program_memory.md. -/
theorem test_decode_Z0_program_memory :
    dec 0b1001_0101_1100_1000#16 0#16 = some .lpm := by decide

/-- Format I4, words written out from the patterns of spec/30_encoding.md for 44_direct_sram_and_immediate.md. -/
theorem test_decode_I4_direct_sram_and_immediate :
    dec 0b1001_0100_1101_1011#16 0#16 = some (.des 0xD#4) := by decide

/-- Format JA, words written out from the patterns of spec/30_encoding.md for 47_control_transfer.md. -/
theorem test_decode_JA_control_transfer :
    dec 0b1001_0101_1010_1101#16 0xBEEF#16 = some (.jmp 0x35BEEF#22) ∧
    dec 0b1001_0101_1010_1111#16 0xBEEF#16 = some (.call 0x35BEEF#22) := by decide

/-- Format I6, words written out from the patterns of spec/30_encoding.md for 44_direct_sram_and_immediate.md. -/
theorem test_decode_I6_direct_sram_and_immediate :
    dec 0b1001_0110_1010_0101#16 0#16 = some (.adiw 28#5 0x25#6) ∧
    dec 0b1001_0111_1010_0101#16 0#16 = some (.sbiw 28#5 0x25#6) := by decide

/-- Format IOB, words written out from the patterns of spec/30_encoding.md for 43_io_direct.md. -/
theorem test_decode_IOB_io_direct :
    dec 0b1001_1000_0101_1101#16 0#16 = some (.cbi 0x0B#5 5#3) ∧
    dec 0b1001_1001_0101_1101#16 0#16 = some (.sbic 0x0B#5 5#3) ∧
    dec 0b1001_1010_0101_1101#16 0#16 = some (.sbi 0x0B#5 5#3) ∧
    dec 0b1001_1011_0101_1101#16 0#16 = some (.sbis 0x0B#5 5#3) := by decide

/-- Format RR, words written out from the patterns of spec/30_encoding.md for 42_multiply.md. -/
theorem test_decode_RR_multiply :
    dec 0b1001_1111_0010_0101#16 0#16 = some (.mul 18#5 21#5) := by decide

/-- Format IO, words written out from the patterns of spec/30_encoding.md for 43_io_direct.md. -/
theorem test_decode_IO_io_direct :
    dec 0b1011_0101_0010_1101#16 0#16 = some (.inp 18#5 0x2D#6) ∧
    dec 0b1011_1101_0101_1101#16 0#16 = some (.out 0x2D#6 21#5) := by decide

/-- Format JR, words written out from the patterns of spec/30_encoding.md for 47_control_transfer.md. -/
theorem test_decode_JR_control_transfer :
    dec 0b1100_1100_0101_0111#16 0#16 = some (.rjmp 0xC57#12) ∧
    dec 0b1101_1100_0101_0111#16 0#16 = some (.rcall 0xC57#12) := by decide

/-- Format BR, words written out from the patterns of spec/30_encoding.md for 47_control_transfer.md. -/
theorem test_decode_BR_control_transfer :
    dec 0b1111_0010_1100_1110#16 0#16 = some (.brbs 6#3 0x59#7) ∧
    dec 0b1111_0110_1100_1110#16 0#16 = some (.brbc 6#3 0x59#7) := by decide

/-- Format RB, words written out from the patterns of spec/30_encoding.md for 40_single_register.md. -/
theorem test_decode_RB_single_register :
    dec 0b1111_1001_0010_0101#16 0#16 = some (.bld 18#5 5#3) ∧
    dec 0b1111_1011_0101_0101#16 0#16 = some (.bst 21#5 5#3) ∧
    dec 0b1111_1101_0101_0101#16 0#16 = some (.sbrc 21#5 5#3) ∧
    dec 0b1111_1111_0101_0101#16 0#16 = some (.sbrs 21#5 5#3) := by decide

/-! ## The vectors of spec/95_vectors.md, at most two per instruction -/

/-- VA1 `com r16` -/
theorem test_VA1_com : after (start 0x0100 0x00 0x08FF [(16, 0x55)]
      [] [(0x0100, [0x9500])]) [16]
      [] = some ⟨0x0101, 0x15, 0x08FF, false, [0xAA],
      []⟩ := by decide

/-- VA3 `com r16` -/
theorem test_VA3_com : after (start 0x0100 0x00 0x08FF [(16, 0x00)]
      [] [(0x0100, [0x9500])]) [16]
      [] = some ⟨0x0101, 0x15, 0x08FF, false, [0xFF],
      []⟩ := by decide

/-- VA6 `neg r16` -/
theorem test_VA6_neg : after (start 0x0100 0x00 0x08FF [(16, 0x01)]
      [] [(0x0100, [0x9501])]) [16]
      [] = some ⟨0x0101, 0x35, 0x08FF, false, [0xFF],
      []⟩ := by decide

/-- VA7 `neg r16` -/
theorem test_VA7_neg : after (start 0x0100 0x00 0x08FF [(16, 0x10)]
      [] [(0x0100, [0x9501])]) [16]
      [] = some ⟨0x0101, 0x15, 0x08FF, false, [0xF0],
      []⟩ := by decide

/-- VA8 `swap r16` -/
theorem test_VA8_swap : after (start 0x0100 0xFF 0x08FF [(16, 0xA5)]
      [] [(0x0100, [0x9502])]) [16]
      [] = some ⟨0x0101, 0xFF, 0x08FF, false, [0x5A],
      []⟩ := by decide

/-- VA9 `inc r16` -/
theorem test_VA9_inc : after (start 0x0100 0x01 0x08FF [(16, 0xFF)]
      [] [(0x0100, [0x9503])]) [16]
      [] = some ⟨0x0101, 0x03, 0x08FF, false, [0x00],
      []⟩ := by decide

/-- VA10 `inc r16` -/
theorem test_VA10_inc : after (start 0x0100 0x00 0x08FF [(16, 0x7F)]
      [] [(0x0100, [0x9503])]) [16]
      [] = some ⟨0x0101, 0x0C, 0x08FF, false, [0x80],
      []⟩ := by decide

/-- VA12 `asr r16` -/
theorem test_VA12_asr : after (start 0x0100 0x00 0x08FF [(16, 0x01)]
      [] [(0x0100, [0x9505])]) [16]
      [] = some ⟨0x0101, 0x1B, 0x08FF, false, [0x00],
      []⟩ := by decide

/-- VA14 `asr r16` -/
theorem test_VA14_asr : after (start 0x0100 0x00 0x08FF [(16, 0x81)]
      [] [(0x0100, [0x9505])]) [16]
      [] = some ⟨0x0101, 0x15, 0x08FF, false, [0xC0],
      []⟩ := by decide

/-- VA15 `lsr r16` -/
theorem test_VA15_lsr : after (start 0x0100 0x00 0x08FF [(16, 0x01)]
      [] [(0x0100, [0x9506])]) [16]
      [] = some ⟨0x0101, 0x1B, 0x08FF, false, [0x00],
      []⟩ := by decide

/-- VA16 `lsr r16` -/
theorem test_VA16_lsr : after (start 0x0100 0x1F 0x08FF [(16, 0x80)]
      [] [(0x0100, [0x9506])]) [16]
      [] = some ⟨0x0101, 0x00, 0x08FF, false, [0x40],
      []⟩ := by decide

/-- VA17 `ror r16` -/
theorem test_VA17_ror : after (start 0x0100 0x01 0x08FF [(16, 0x00)]
      [] [(0x0100, [0x9507])]) [16]
      [] = some ⟨0x0101, 0x0C, 0x08FF, false, [0x80],
      []⟩ := by decide

/-- VA18 `ror r16` -/
theorem test_VA18_ror : after (start 0x0100 0x00 0x08FF [(16, 0x01)]
      [] [(0x0100, [0x9507])]) [16]
      [] = some ⟨0x0101, 0x1B, 0x08FF, false, [0x00],
      []⟩ := by decide

/-- VA20 `dec r16` -/
theorem test_VA20_dec : after (start 0x0100 0x00 0x08FF [(16, 0x00)]
      [] [(0x0100, [0x950A])]) [16]
      [] = some ⟨0x0101, 0x14, 0x08FF, false, [0xFF],
      []⟩ := by decide

/-- VA21 `dec r16` -/
theorem test_VA21_dec : after (start 0x0100 0x01 0x08FF [(16, 0x80)]
      [] [(0x0100, [0x950A])]) [16]
      [] = some ⟨0x0101, 0x19, 0x08FF, false, [0x7F],
      []⟩ := by decide

/-- VA24 `bld r17,1` -/
theorem test_VA24_bld : after (start 0x0100 0x40 0x08FF [(17, 0x00)]
      [] [(0x0100, [0xF911])]) [17]
      [] = some ⟨0x0101, 0x40, 0x08FF, false, [0x02],
      []⟩ := by decide

/-- VA25 `bld r17,1` -/
theorem test_VA25_bld : after (start 0x0100 0x00 0x08FF [(17, 0xFF)]
      [] [(0x0100, [0xF911])]) [17]
      [] = some ⟨0x0101, 0x00, 0x08FF, false, [0xFD],
      []⟩ := by decide

/-- VA26 `bst r16,7` -/
theorem test_VA26_bst : after (start 0x0100 0x00 0x08FF [(16, 0x80)]
      [] [(0x0100, [0xFB07])]) [16]
      [] = some ⟨0x0101, 0x40, 0x08FF, false, [0x80],
      []⟩ := by decide

/-- VA27 `bst r16,7` -/
theorem test_VA27_bst : after (start 0x0100 0xFF 0x08FF [(16, 0x7F)]
      [] [(0x0100, [0xFB07])]) [16]
      [] = some ⟨0x0101, 0xBF, 0x08FF, false, [0x7F],
      []⟩ := by decide

/-- VA28 `sbrc r16,7` -/
theorem test_VA28_sbrc : after (start 0x0100 0x00 0x08FF [(16, 0x00)]
      [] [(0x0100, [0xFD07, 0x0000])]) [16]
      [] = some ⟨0x0102, 0x00, 0x08FF, false, [0x00],
      []⟩ := by decide

/-- VA29 `sbrc r16,7` -/
theorem test_VA29_sbrc : after (start 0x0100 0x00 0x08FF [(16, 0x00)]
      [] [(0x0100, [0xFD07, 0x9180, 0x0103])]) [16]
      [] = some ⟨0x0103, 0x00, 0x08FF, false, [0x00],
      []⟩ := by decide

/-- VA32 `sbrs r16,7` -/
theorem test_VA32_sbrs : after (start 0x0100 0x00 0x08FF [(16, 0x80)]
      [] [(0x0100, [0xFF07, 0x940C, 0x0000])]) [16]
      [] = some ⟨0x0103, 0x00, 0x08FF, false, [0x80],
      []⟩ := by decide

/-- VA33 `sbrs r16,7` -/
theorem test_VA33_sbrs : after (start 0x0100 0x00 0x08FF [(16, 0x7F)]
      [] [(0x0100, [0xFF07, 0x940C, 0x0000])]) [16]
      [] = some ⟨0x0101, 0x00, 0x08FF, false, [0x7F],
      []⟩ := by decide

/-- VB1 `add r16,r17` -/
theorem test_VB1_add : after (start 0x0100 0x00 0x08FF [(16, 0xFF), (17, 0x01)]
      [] [(0x0100, [0x0F01])]) [16, 17]
      [] = some ⟨0x0101, 0x23, 0x08FF, false, [0x00, 0x01],
      []⟩ := by decide

/-- VB3 `add r16,r17` -/
theorem test_VB3_add : after (start 0x0100 0x00 0x08FF [(16, 0x80), (17, 0x80)]
      [] [(0x0100, [0x0F01])]) [16, 17]
      [] = some ⟨0x0101, 0x1B, 0x08FF, false, [0x00, 0x80],
      []⟩ := by decide

/-- VB6 `adc r16,r17` -/
theorem test_VB6_adc : after (start 0x0100 0x01 0x08FF [(16, 0xFF), (17, 0x00)]
      [] [(0x0100, [0x1F01])]) [16, 17]
      [] = some ⟨0x0101, 0x23, 0x08FF, false, [0x00, 0x00],
      []⟩ := by decide

/-- VB7 `adc r16,r17` -/
theorem test_VB7_adc : after (start 0x0100 0x01 0x08FF [(16, 0x7F), (17, 0x00)]
      [] [(0x0100, [0x1F01])]) [16, 17]
      [] = some ⟨0x0101, 0x2C, 0x08FF, false, [0x80, 0x00],
      []⟩ := by decide

/-- VB10 `sub r16,r17` -/
theorem test_VB10_sub : after (start 0x0100 0x00 0x08FF [(16, 0x00), (17, 0x01)]
      [] [(0x0100, [0x1B01])]) [16, 17]
      [] = some ⟨0x0101, 0x35, 0x08FF, false, [0xFF, 0x01],
      []⟩ := by decide

/-- VB12 `sub r16,r16` -/
theorem test_VB12_sub : after (start 0x0100 0x3F 0x08FF [(16, 0x5A)]
      [] [(0x0100, [0x1B00])]) [16]
      [] = some ⟨0x0101, 0x02, 0x08FF, false, [0x00],
      []⟩ := by decide

/-- VB13 `sbc r25,r27` -/
theorem test_VB13_sbc : after (start 0x0100 0x03 0x08FF [(25, 0x10), (27, 0x0F)]
      [] [(0x0100, [0x0B9B])]) [25, 27]
      [] = some ⟨0x0101, 0x22, 0x08FF, false, [0x00, 0x0F],
      []⟩ := by decide

/-- VB15 `sbc r16,r16` -/
theorem test_VB15_sbc : after (start 0x0100 0x01 0x08FF [(16, 0x77)]
      [] [(0x0100, [0x0B00])]) [16]
      [] = some ⟨0x0101, 0x35, 0x08FF, false, [0xFF],
      []⟩ := by decide

/-- VB17 `cp r16,r17` -/
theorem test_VB17_cp : after (start 0x0100 0x00 0x08FF [(16, 0x80), (17, 0x01)]
      [] [(0x0100, [0x1701])]) [16, 17]
      [] = some ⟨0x0101, 0x38, 0x08FF, false, [0x80, 0x01],
      []⟩ := by decide

/-- VB18 `cp r16,r17` -/
theorem test_VB18_cp : after (start 0x0100 0x00 0x08FF [(16, 0x01), (17, 0x80)]
      [] [(0x0100, [0x1701])]) [16, 17]
      [] = some ⟨0x0101, 0x0D, 0x08FF, false, [0x01, 0x80],
      []⟩ := by decide

/-- VB20 `cpc r25,r1` -/
theorem test_VB20_cpc : after (start 0x0100 0x01 0x08FF [(1, 0x00), (25, 0x01)]
      [] [(0x0100, [0x0591])]) [1, 25]
      [] = some ⟨0x0101, 0x00, 0x08FF, false, [0x00, 0x01],
      []⟩ := by decide

/-- VB21 `cpc r25,r1` -/
theorem test_VB21_cpc : after (start 0x0100 0x02 0x08FF [(1, 0x00), (25, 0x00)]
      [] [(0x0100, [0x0591])]) [1, 25]
      [] = some ⟨0x0101, 0x02, 0x08FF, false, [0x00, 0x00],
      []⟩ := by decide

/-- VB23 `cpse r16,r17` -/
theorem test_VB23_cpse : after (start 0x0100 0x00 0x08FF [(16, 0x33), (17, 0x33)]
      [] [(0x0100, [0x1301, 0x9310, 0x0100])]) [16, 17]
      [] = some ⟨0x0103, 0x00, 0x08FF, false, [0x33, 0x33],
      []⟩ := by decide

/-- VB24 `cpse r16,r17` -/
theorem test_VB24_cpse : after (start 0x0100 0x00 0x08FF [(16, 0x33), (17, 0x33)]
      [] [(0x0100, [0x1301, 0xE000])]) [16, 17]
      [] = some ⟨0x0102, 0x00, 0x08FF, false, [0x33, 0x33],
      []⟩ := by decide

/-- VB26 `and r24,r16` -/
theorem test_VB26_and : after (start 0x0100 0x09 0x08FF [(16, 0x3C), (24, 0xF0)]
      [] [(0x0100, [0x2380])]) [16, 24]
      [] = some ⟨0x0101, 0x01, 0x08FF, false, [0x3C, 0x30],
      []⟩ := by decide

/-- VB27 `tst r16` -/
theorem test_VB27_and : after (start 0x0100 0x08 0x08FF [(16, 0x80)]
      [] [(0x0100, [0x2300])]) [16]
      [] = some ⟨0x0101, 0x14, 0x08FF, false, [0x80],
      []⟩ := by decide

/-- VB29 `clr r1` -/
theorem test_VB29_eor : after (start 0x0100 0x21 0x08FF [(1, 0xA7)]
      [] [(0x0100, [0x2411])]) [1]
      [] = some ⟨0x0101, 0x23, 0x08FF, false, [0x00],
      []⟩ := by decide

/-- VB30 `eor r16,r17` -/
theorem test_VB30_eor : after (start 0x0100 0x00 0x08FF [(16, 0xFF), (17, 0x0F)]
      [] [(0x0100, [0x2701])]) [16, 17]
      [] = some ⟨0x0101, 0x14, 0x08FF, false, [0xF0, 0x0F],
      []⟩ := by decide

/-- VB31 `or r8,r16` -/
theorem test_VB31_or : after (start 0x0100 0x00 0x08FF [(8, 0x01), (16, 0x80)]
      [] [(0x0100, [0x2A80])]) [8, 16]
      [] = some ⟨0x0101, 0x14, 0x08FF, false, [0x81, 0x80],
      []⟩ := by decide

/-- VB32 `or r16,r17` -/
theorem test_VB32_or : after (start 0x0100 0x1D 0x08FF [(16, 0x00), (17, 0x00)]
      [] [(0x0100, [0x2B01])]) [16, 17]
      [] = some ⟨0x0101, 0x03, 0x08FF, false, [0x00, 0x00],
      []⟩ := by decide

/-- VB33 `mov r0,r31` -/
theorem test_VB33_mov : after (start 0x0100 0xFF 0x08FF [(0, 0x00), (31, 0x99)]
      [] [(0x0100, [0x2E0F])]) [0, 31]
      [] = some ⟨0x0101, 0xFF, 0x08FF, false, [0x99, 0x99],
      []⟩ := by decide

/-- VB34 `movw r24,r30` -/
theorem test_VB34_movw : after (start 0x0100 0xFF 0x08FF [(24, 0x00), (25, 0x00), (30, 0x34), (31, 0x12)]
      [] [(0x0100, [0x01CF])]) [24, 25, 30, 31]
      [] = some ⟨0x0101, 0xFF, 0x08FF, false, [0x34, 0x12, 0x34, 0x12],
      []⟩ := by decide

/-- VC1 `mul r16,r17` -/
theorem test_VC1_mul : after (start 0x0100 0xFC 0x08FF [(0, 0x00), (1, 0x00), (16, 0xFF), (17, 0xFF)]
      [] [(0x0100, [0x9F01])]) [0, 1, 16, 17]
      [] = some ⟨0x0101, 0xFD, 0x08FF, false, [0x01, 0xFE, 0xFF, 0xFF],
      []⟩ := by decide

/-- VC2 `mul r16,r17` -/
theorem test_VC2_mul : after (start 0x0100 0x01 0x08FF [(0, 0x55), (1, 0x55), (16, 0x00), (17, 0xFF)]
      [] [(0x0100, [0x9F01])]) [0, 1, 16, 17]
      [] = some ⟨0x0101, 0x02, 0x08FF, false, [0x00, 0x00, 0x00, 0xFF],
      []⟩ := by decide

/-- VC4 `muls r16,r17` -/
theorem test_VC4_muls : after (start 0x0100 0x00 0x08FF [(0, 0x00), (1, 0x00), (16, 0xFF), (17, 0xFF)]
      [] [(0x0100, [0x0201])]) [0, 1, 16, 17]
      [] = some ⟨0x0101, 0x00, 0x08FF, false, [0x01, 0x00, 0xFF, 0xFF],
      []⟩ := by decide

/-- VC5 `muls r16,r17` -/
theorem test_VC5_muls : after (start 0x0100 0x00 0x08FF [(0, 0x00), (1, 0x00), (16, 0x80), (17, 0x7F)]
      [] [(0x0100, [0x0201])]) [0, 1, 16, 17]
      [] = some ⟨0x0101, 0x01, 0x08FF, false, [0x80, 0xC0, 0x80, 0x7F],
      []⟩ := by decide

/-- VC7 `mulsu r16,r17` -/
theorem test_VC7_mulsu : after (start 0x0100 0x00 0x08FF [(0, 0x00), (1, 0x00), (16, 0xFF), (17, 0xFF)]
      [] [(0x0100, [0x0301])]) [0, 1, 16, 17]
      [] = some ⟨0x0101, 0x01, 0x08FF, false, [0x01, 0xFF, 0xFF, 0xFF],
      []⟩ := by decide

/-- VC9 `mulsu r16,r17` -/
theorem test_VC9_mulsu : after (start 0x0100 0x00 0x08FF [(0, 0x00), (1, 0x00), (16, 0x80), (17, 0xFF)]
      [] [(0x0100, [0x0301])]) [0, 1, 16, 17]
      [] = some ⟨0x0101, 0x01, 0x08FF, false, [0x80, 0x80, 0x80, 0xFF],
      []⟩ := by decide

/-- VC11 `fmul r16,r17` -/
theorem test_VC11_fmul : after (start 0x0100 0x00 0x08FF [(0, 0x00), (1, 0x00), (16, 0xFF), (17, 0xFF)]
      [] [(0x0100, [0x0309])]) [0, 1, 16, 17]
      [] = some ⟨0x0101, 0x01, 0x08FF, false, [0x02, 0xFC, 0xFF, 0xFF],
      []⟩ := by decide

/-- VC12 `fmul r16,r17` -/
theorem test_VC12_fmul : after (start 0x0100 0x01 0x08FF [(0, 0x01), (1, 0x01), (16, 0x00), (17, 0xFF)]
      [] [(0x0100, [0x0309])]) [0, 1, 16, 17]
      [] = some ⟨0x0101, 0x02, 0x08FF, false, [0x00, 0x00, 0x00, 0xFF],
      []⟩ := by decide

/-- VC13 `fmuls r16,r17` -/
theorem test_VC13_fmuls : after (start 0x0100 0x00 0x08FF [(0, 0x00), (1, 0x00), (16, 0x80), (17, 0x80)]
      [] [(0x0100, [0x0381])]) [0, 1, 16, 17]
      [] = some ⟨0x0101, 0x00, 0x08FF, false, [0x00, 0x80, 0x80, 0x80],
      []⟩ := by decide

/-- VC15 `fmuls r16,r17` -/
theorem test_VC15_fmuls : after (start 0x0100 0x00 0x08FF [(0, 0x00), (1, 0x00), (16, 0xC0), (17, 0x40)]
      [] [(0x0100, [0x0381])]) [0, 1, 16, 17]
      [] = some ⟨0x0101, 0x01, 0x08FF, false, [0x00, 0xE0, 0xC0, 0x40],
      []⟩ := by decide

/-- VC16 `fmulsu r16,r17` -/
theorem test_VC16_fmulsu : after (start 0x0100 0x00 0x08FF [(0, 0x00), (1, 0x00), (16, 0x80), (17, 0x80)]
      [] [(0x0100, [0x0389])]) [0, 1, 16, 17]
      [] = some ⟨0x0101, 0x01, 0x08FF, false, [0x00, 0x80, 0x80, 0x80],
      []⟩ := by decide

/-- VC17 `fmulsu r23,r22` -/
theorem test_VC17_fmulsu : after (start 0x0100 0x01 0x08FF [(0, 0x09), (1, 0x09), (22, 0x00), (23, 0x80)]
      [] [(0x0100, [0x03FE])]) [0, 1, 22, 23]
      [] = some ⟨0x0101, 0x02, 0x08FF, false, [0x00, 0x00, 0x00, 0x80],
      []⟩ := by decide

/-- VD1 `in r20,0x3F` -/
theorem test_VD1_inp : after (start 0x0100 0xA5 0x08FF [(20, 0x00)]
      [] [(0x0100, [0xB74F])]) [20]
      [] = some ⟨0x0101, 0xA5, 0x08FF, false, [0xA5],
      []⟩ := by decide

/-- VD2 `out 0x3F,r20` -/
theorem test_VD2_out : after (start 0x0100 0x00 0x08FF [(20, 0x80)]
      [] [(0x0100, [0xBF4F])]) [20]
      [] = some ⟨0x0101, 0x80, 0x08FF, true, [0x80],
      []⟩ := by decide

/-- VD4 `out 0x3F,r20` -/
theorem test_VD4_out : after (start 0x0100 0xFF 0x08FF [(20, 0x03)]
      [] [(0x0100, [0xBF4F])]) [20]
      [] = some ⟨0x0101, 0x03, 0x08FF, false, [0x03],
      []⟩ := by decide

/-- VD7 `in r16,0x3D` -/
theorem test_VD7_inp : after (start 0x0100 0x00 0x08F7 [(16, 0x00)]
      [] [(0x0100, [0xB70D])]) [16]
      [] = some ⟨0x0101, 0x00, 0x08F7, false, [0xF7],
      []⟩ := by decide

/-- VD16 `sec` -/
theorem test_VD16_bset : after (start 0x0100 0x00 0x08FF []
      [] [(0x0100, [0x9408])]) []
      [] = some ⟨0x0101, 0x01, 0x08FF, false, [],
      []⟩ := by decide

/-- VD23 `sei` -/
theorem test_VD23_bset : after (start 0x0100 0x00 0x08FF []
      [] [(0x0100, [0x9478])]) []
      [] = some ⟨0x0101, 0x80, 0x08FF, true, [],
      []⟩ := by decide

/-- VD25 `clc` -/
theorem test_VD25_bclr : after (start 0x0100 0xFF 0x08FF []
      [] [(0x0100, [0x9488])]) []
      [] = some ⟨0x0101, 0xFE, 0x08FF, false, [],
      []⟩ := by decide

/-- VD26 `clz` -/
theorem test_VD26_bclr : after (start 0x0100 0xFF 0x08FF []
      [] [(0x0100, [0x9498])]) []
      [] = some ⟨0x0101, 0xFD, 0x08FF, false, [],
      []⟩ := by decide

/-- VE1 `lds r24,0x0103` -/
theorem test_VE1_lds : after (start 0x0100 0xFF 0x08FF [(24, 0x00)]
      [(0x0103, 0x5A)] [(0x0100, [0x9180, 0x0103])]) [24]
      [0x0103] = some ⟨0x0102, 0xFF, 0x08FF, false, [0x5A],
      [some 0x5A]⟩ := by decide

/-- VE5 `lds r16,0x0900` -/
theorem test_VE5_lds : faultOf (start 0x0100 0x00 0x08FF [(16, 0x00)]
      [] [(0x0100, [0x9100, 0x0900])]) = some (.dataAddressOutOfRange 0x0100#14 0x0900#16 .read) := by decide

/-- VE9 `sts 0x005F,r17` -/
theorem test_VE9_sts : after (start 0x0100 0x00 0x08FF [(17, 0x81)]
      [] [(0x0100, [0x9310, 0x005F])]) [17]
      [] = some ⟨0x0102, 0x81, 0x08FF, true, [0x81],
      []⟩ := by decide

/-- VE10 `sts 0xFFFF,r17` -/
theorem test_VE10_sts : faultOf (start 0x0100 0x00 0x08FF [(17, 0x02)]
      [] [(0x0100, [0x9310, 0xFFFF])]) = some (.dataAddressOutOfRange 0x0100#14 0xFFFF#16 .write) := by decide

/-- VE11 `ldi r16,0x20` -/
theorem test_VE11_ldi : after (start 0x0100 0xFF 0x08FF [(16, 0xFF)]
      [] [(0x0100, [0xE200])]) [16]
      [] = some ⟨0x0101, 0xFF, 0x08FF, false, [0x20],
      []⟩ := by decide

/-- VE12 `ser r24` -/
theorem test_VE12_ldi : after (start 0x0100 0x00 0x08FF [(24, 0x00)]
      [] [(0x0100, [0xEF8F])]) [24]
      [] = some ⟨0x0101, 0x00, 0x08FF, false, [0xFF],
      []⟩ := by decide

/-- VE14 `cpi r16,0xFF` -/
theorem test_VE14_cpi : after (start 0x0100 0x00 0x08FF [(16, 0x00)]
      [] [(0x0100, [0x3F0F])]) [16]
      [] = some ⟨0x0101, 0x21, 0x08FF, false, [0x00],
      []⟩ := by decide

/-- VE15 `cpi r16,0x40` -/
theorem test_VE15_cpi : after (start 0x0100 0x00 0x08FF [(16, 0x3F)]
      [] [(0x0100, [0x3400])]) [16]
      [] = some ⟨0x0101, 0x15, 0x08FF, false, [0x3F],
      []⟩ := by decide

/-- VE16 `subi r16,1` -/
theorem test_VE16_subi : after (start 0x0100 0x00 0x08FF [(16, 0x00)]
      [] [(0x0100, [0x5001])]) [16]
      [] = some ⟨0x0101, 0x35, 0x08FF, false, [0xFF],
      []⟩ := by decide

/-- VE17 `subi r24,0xFF` -/
theorem test_VE17_subi : after (start 0x0100 0x00 0x08FF [(24, 0x01)]
      [] [(0x0100, [0x5F8F])]) [24]
      [] = some ⟨0x0101, 0x21, 0x08FF, false, [0x02],
      []⟩ := by decide

/-- VE18 `sbci r25,0x00` -/
theorem test_VE18_sbci : after (start 0x0100 0x03 0x08FF [(25, 0x00)]
      [] [(0x0100, [0x4090])]) [25]
      [] = some ⟨0x0101, 0x35, 0x08FF, false, [0xFF],
      []⟩ := by decide

/-- VE19 `sbci r25,0x00` -/
theorem test_VE19_sbci : after (start 0x0100 0x03 0x08FF [(25, 0x01)]
      [] [(0x0100, [0x4090])]) [25]
      [] = some ⟨0x0101, 0x02, 0x08FF, false, [0x00],
      []⟩ := by decide

/-- VE21 `ori r16,0x80` -/
theorem test_VE21_ori : after (start 0x0100 0x09 0x08FF [(16, 0x01)]
      [] [(0x0100, [0x6800])]) [16]
      [] = some ⟨0x0101, 0x15, 0x08FF, false, [0x81],
      []⟩ := by decide

/-- VE22 `andi r16,0x0F` -/
theorem test_VE22_andi : after (start 0x0100 0x0C 0x08FF [(16, 0xF0)]
      [] [(0x0100, [0x700F])]) [16]
      [] = some ⟨0x0101, 0x02, 0x08FF, false, [0x00],
      []⟩ := by decide

/-- VE23 `cbr r16,0x01 (andi r16,0xFE)` -/
theorem test_VE23_andi : after (start 0x0100 0x00 0x08FF [(16, 0xFF)]
      [] [(0x0100, [0x7F0E])]) [16]
      [] = some ⟨0x0101, 0x14, 0x08FF, false, [0xFE],
      []⟩ := by decide

/-- VE24 `adiw r24,1` -/
theorem test_VE24_adiw : after (start 0x0100 0x00 0x08FF [(24, 0xFF), (25, 0xFF)]
      [] [(0x0100, [0x9601])]) [24, 25]
      [] = some ⟨0x0101, 0x03, 0x08FF, false, [0x00, 0x00],
      []⟩ := by decide

/-- VE25 `adiw r24,1` -/
theorem test_VE25_adiw : after (start 0x0100 0x00 0x08FF [(24, 0xFF), (25, 0x7F)]
      [] [(0x0100, [0x9601])]) [24, 25]
      [] = some ⟨0x0101, 0x0C, 0x08FF, false, [0x00, 0x80],
      []⟩ := by decide

/-- VE28 `sbiw r26,1` -/
theorem test_VE28_sbiw : after (start 0x0100 0x00 0x08FF [(26, 0x00), (27, 0x00)]
      [] [(0x0100, [0x9711])]) [26, 27]
      [] = some ⟨0x0101, 0x15, 0x08FF, false, [0xFF, 0xFF],
      []⟩ := by decide

/-- VE29 `sbiw r26,1` -/
theorem test_VE29_sbiw : after (start 0x0100 0x00 0x08FF [(26, 0x00), (27, 0x80)]
      [] [(0x0100, [0x9711])]) [26, 27]
      [] = some ⟨0x0101, 0x18, 0x08FF, false, [0xFF, 0x7F],
      []⟩ := by decide

/-- VE32 `des 0` -/
theorem test_VE32_des : faultOf (start 0x0100 0x00 0x08FF []
      [] [(0x0100, [0x940B])]) = some (.notOnThisDevice 0x0100#14 0x940B#16) := by decide

/-- VF1 `ldd r0,Z+1` -/
theorem test_VF1_lddZ : after (start 0x0100 0xFF 0x08FF [(0, 0x00), (30, 0x00), (31, 0x01)]
      [(0x0101, 0x77)] [(0x0100, [0x8001])]) [0, 30, 31]
      [0x0101] = some ⟨0x0101, 0xFF, 0x08FF, false, [0x77, 0x00, 0x01],
      [some 0x77]⟩ := by decide

/-- VF2 `ldd r24,Y+63` -/
theorem test_VF2_lddY : after (start 0x0100 0x00 0x08FF [(24, 0x00), (28, 0xC0), (29, 0x08)]
      [(0x08FF, 0x12)] [(0x0100, [0xAD8F])]) [24, 28, 29]
      [0x08FF] = some ⟨0x0101, 0x00, 0x08FF, false, [0x12, 0xC0, 0x08],
      [some 0x12]⟩ := by decide

/-- VF3 `ldd r24,Y+63` -/
theorem test_VF3_lddY : faultOf (start 0x0100 0x00 0x08FF [(24, 0x00), (28, 0xC1), (29, 0x08)]
      [] [(0x0100, [0xAD8F])]) = some (.dataAddressOutOfRange 0x0100#14 0x0900#16 .read) := by decide

/-- VF5 `std Z+2,r17` -/
theorem test_VF5_stdZ : after (start 0x0100 0x00 0x08FF [(17, 0xAB), (30, 0x00), (31, 0x02)]
      [] [(0x0100, [0x8312])]) [17, 30, 31]
      [0x0202] = some ⟨0x0101, 0x00, 0x08FF, false, [0xAB, 0x00, 0x02],
      [some 0xAB]⟩ := by decide

/-- VF6 `st Y,r16` -/
theorem test_VF6_stdY : after (start 0x0100 0x00 0x08FF [(16, 0x44), (28, 0x1C), (29, 0x00)]
      [] [(0x0100, [0x8308])]) [16, 28, 29]
      [] = some ⟨0x0101, 0x00, 0x08FF, false, [0x44, 0x44, 0x00],
      []⟩ := by decide

/-- VF7 `ld r30,Z` -/
theorem test_VF7_lddZ : after (start 0x0100 0x00 0x08FF [(30, 0x00), (31, 0x01)]
      [(0x0100, 0x05)] [(0x0100, [0x81E0])]) [30, 31]
      [0x0100] = some ⟨0x0101, 0x00, 0x08FF, false, [0x05, 0x01],
      [some 0x05]⟩ := by decide

/-- VF8 `ld r16,Z+` -/
theorem test_VF8_ldZInc : after (start 0x0100 0x00 0x08FF [(16, 0x00), (30, 0x00), (31, 0x01)]
      [(0x0100, 0x41)] [(0x0100, [0x9101])]) [16, 30, 31]
      [0x0100] = some ⟨0x0101, 0x00, 0x08FF, false, [0x41, 0x01, 0x01],
      [some 0x41]⟩ := by decide

/-- VF9 `ld r16,-Z` -/
theorem test_VF9_ldZDec : after (start 0x0100 0x00 0x08FF [(16, 0x00), (30, 0x01), (31, 0x01)]
      [(0x0100, 0x41)] [(0x0100, [0x9102])]) [16, 30, 31]
      [0x0100] = some ⟨0x0101, 0x00, 0x08FF, false, [0x41, 0x00, 0x01],
      [some 0x41]⟩ := by decide

/-- VF10 `ld r16,-Z` -/
theorem test_VF10_ldZDec : faultOf (start 0x0100 0x00 0x08FF [(16, 0x00), (30, 0x00), (31, 0x00)]
      [] [(0x0100, [0x9102])]) = some (.dataAddressOutOfRange 0x0100#14 0xFFFF#16 .read) := by decide

/-- VF11 `ld r16,Y+` -/
theorem test_VF11_ldYInc : after (start 0x0100 0x00 0x08FF [(16, 0x00), (28, 0xFF), (29, 0x01)]
      [(0x01FF, 0x42)] [(0x0100, [0x9109])]) [16, 28, 29]
      [0x01FF] = some ⟨0x0101, 0x00, 0x08FF, false, [0x42, 0x00, 0x02],
      [some 0x42]⟩ := by decide

/-- VF12 `ld r16,-Y` -/
theorem test_VF12_ldYDec : after (start 0x0100 0x00 0x08FF [(16, 0x00), (28, 0x00), (29, 0x02)]
      [(0x01FF, 0x42)] [(0x0100, [0x910A])]) [16, 28, 29]
      [0x01FF] = some ⟨0x0101, 0x00, 0x08FF, false, [0x42, 0xFF, 0x01],
      [some 0x42]⟩ := by decide

/-- VF13 `ld r16,X` -/
theorem test_VF13_ldX : after (start 0x0100 0x00 0x08FF [(16, 0x6B), (26, 0x10), (27, 0x00)]
      [] [(0x0100, [0x910C])]) [16, 26, 27]
      [] = some ⟨0x0101, 0x00, 0x08FF, false, [0x6B, 0x10, 0x00],
      []⟩ := by decide

/-- VF14 `ld r16,X` -/
theorem test_VF14_ldX : after (start 0x0100 0xC3 0x08FF [(16, 0x00), (26, 0x5F), (27, 0x00)]
      [] [(0x0100, [0x910C])]) [16, 26, 27]
      [] = some ⟨0x0101, 0xC3, 0x08FF, false, [0xC3, 0x5F, 0x00],
      []⟩ := by decide

/-- VF15 `ld r16,X+` -/
theorem test_VF15_ldXInc : after (start 0x0100 0x00 0x08FF [(16, 0x00), (26, 0xFF), (27, 0x08)]
      [(0x08FF, 0x99)] [(0x0100, [0x910D])]) [16, 26, 27]
      [0x08FF] = some ⟨0x0101, 0x00, 0x08FF, false, [0x99, 0x00, 0x09],
      [some 0x99]⟩ := by decide

/-- VF16 `ld r16,X+` -/
theorem test_VF16_ldXInc : faultOf (start 0x0100 0x00 0x08FF [(16, 0x00), (26, 0x00), (27, 0x09)]
      [] [(0x0100, [0x910D])]) = some (.dataAddressOutOfRange 0x0100#14 0x0900#16 .read) := by decide

/-- VF17 `ld r16,-X` -/
theorem test_VF17_ldXDec : after (start 0x0100 0x00 0x08FF [(16, 0x00), (26, 0x00), (27, 0x09)]
      [(0x08FF, 0x99)] [(0x0100, [0x910E])]) [16, 26, 27]
      [0x08FF] = some ⟨0x0101, 0x00, 0x08FF, false, [0x99, 0xFF, 0x08],
      [some 0x99]⟩ := by decide

/-- VF19 `ld r31,-Y` -/
theorem test_VF19_ldYDec : after (start 0x0100 0x00 0x08FF [(28, 0x01), (29, 0x01), (31, 0x00)]
      [(0x0100, 0x0F)] [(0x0100, [0x91FA])]) [28, 29, 31]
      [0x0100] = some ⟨0x0101, 0x00, 0x08FF, false, [0x00, 0x01, 0x0F],
      [some 0x0F]⟩ := by decide

/-- VF20 `st Z+,r16` -/
theorem test_VF20_stZInc : after (start 0x0100 0x00 0x08FF [(16, 0x20), (30, 0xFF), (31, 0x01)]
      [] [(0x0100, [0x9301])]) [16, 30, 31]
      [0x01FF] = some ⟨0x0101, 0x00, 0x08FF, false, [0x20, 0x00, 0x02],
      [some 0x20]⟩ := by decide

/-- VF21 `st -Z,r16` -/
theorem test_VF21_stZDec : after (start 0x0100 0x00 0x08FF [(16, 0x20), (30, 0x00), (31, 0x02)]
      [] [(0x0100, [0x9302])]) [16, 30, 31]
      [0x01FF] = some ⟨0x0101, 0x00, 0x08FF, false, [0x20, 0xFF, 0x01],
      [some 0x20]⟩ := by decide

/-- VF22 `st -Z,r30` -/
theorem test_VF22_stZDec : faultOf (start 0x0100 0x00 0x08FF [(30, 0x00), (31, 0x02)]
      [] [(0x0100, [0x93E2])]) = some (.undefinedOperandCombination 0x0100#14 0x93E2#16) := by decide

/-- VF23 `st Y+,r16` -/
theorem test_VF23_stYInc : after (start 0x0100 0x00 0x08FF [(16, 0x20), (28, 0x00), (29, 0x01)]
      [] [(0x0100, [0x9309])]) [16, 28, 29]
      [0x0100] = some ⟨0x0101, 0x00, 0x08FF, false, [0x20, 0x01, 0x01],
      [some 0x20]⟩ := by decide

/-- VF24 `st -Y,r16` -/
theorem test_VF24_stYDec : after (start 0x0100 0x00 0x08FF [(16, 0x20), (28, 0x00), (29, 0x01)]
      [] [(0x0100, [0x930A])]) [16, 28, 29]
      [] = some ⟨0x0101, 0x00, 0x08FF, false, [0x20, 0xFF, 0x00],
      []⟩ := by decide

/-- VF25 `st X,r16` -/
theorem test_VF25_stX : after (start 0x0100 0x00 0x08FF [(16, 0x30), (26, 0x1A), (27, 0x00)]
      [] [(0x0100, [0x930C])]) [16, 26, 27]
      [] = some ⟨0x0101, 0x00, 0x08FF, false, [0x30, 0x30, 0x00],
      []⟩ := by decide

/-- VF26 `st X+,r16` -/
theorem test_VF26_stXInc : after (start 0x0100 0x00 0x08FF [(16, 0x20), (26, 0x00), (27, 0x01)]
      [] [(0x0100, [0x930D])]) [16, 26, 27]
      [0x0100] = some ⟨0x0101, 0x00, 0x08FF, false, [0x20, 0x01, 0x01],
      [some 0x20]⟩ := by decide

/-- VF28 `st X+,r16` -/
theorem test_VF28_stXInc : faultOf (start 0x0100 0x00 0x08FF [(16, 0x20), (26, 0xFF), (27, 0xFF)]
      [] [(0x0100, [0x930D])]) = some (.dataAddressOutOfRange 0x0100#14 0xFFFF#16 .write) := by decide

/-- VF29 `st -X,r16` -/
theorem test_VF29_stXDec : after (start 0x0100 0x00 0x08FF [(16, 0x20), (26, 0x00), (27, 0x01)]
      [] [(0x0100, [0x930E])]) [16, 26, 27]
      [] = some ⟨0x0101, 0x00, 0x08FF, false, [0x20, 0xFF, 0x00],
      []⟩ := by decide

/-- VF30 `st X,r16` -/
theorem test_VF30_stX : after (start 0x0100 0x00 0x08FF [(16, 0x20), (26, 0x2B), (27, 0x00)]
      [] [(0x0100, [0x930C])]) [16, 26, 27]
      [] = some ⟨0x0101, 0x00, 0x08FF, false, [0x20, 0x2B, 0x00],
      []⟩ := by decide

/-- VF31 `push r20` -/
theorem test_VF31_push : after (start 0x0100 0x00 0x08FF [(20, 0x3C)]
      [] [(0x0100, [0x934F])]) [20]
      [0x08FF] = some ⟨0x0101, 0x00, 0x08FE, false, [0x3C],
      [some 0x3C]⟩ := by decide

/-- VF32 `push r20` -/
theorem test_VF32_push : faultOf (start 0x0100 0x00 0x0900 [(20, 0x3C)]
      [] [(0x0100, [0x934F])]) = some (.dataAddressOutOfRange 0x0100#14 0x0900#16 .write) := by decide

/-- VF34 `pop r20` -/
theorem test_VF34_pop : after (start 0x0100 0x00 0x08FE [(20, 0x00)]
      [(0x08FF, 0x3C)] [(0x0100, [0x914F])]) [20]
      [0x08FF] = some ⟨0x0101, 0x00, 0x08FF, false, [0x3C],
      [some 0x3C]⟩ := by decide

/-- VF35 `pop r20` -/
theorem test_VF35_pop : faultOf (start 0x0100 0x00 0x08FF [(20, 0x00)]
      [] [(0x0100, [0x914F])]) = some (.dataAddressOutOfRange 0x0100#14 0x0900#16 .read) := by decide

/-- VG1 `lpm` -/
theorem test_VG1_lpm : after (start 0x0100 0xFF 0x08FF [(0, 0x00), (30, 0x70), (31, 0x02)]
      [] [(0x0100, [0x95C8]), (0x0138, [0x307E])]) [0, 30, 31]
      [] = some ⟨0x0101, 0xFF, 0x08FF, false, [0x7E, 0x70, 0x02],
      []⟩ := by decide

/-- VG2 `lpm` -/
theorem test_VG2_lpm : after (start 0x0100 0x00 0x08FF [(0, 0x00), (30, 0x71), (31, 0x02)]
      [] [(0x0100, [0x95C8]), (0x0138, [0x307E])]) [0, 30, 31]
      [] = some ⟨0x0101, 0x00, 0x08FF, false, [0x30, 0x71, 0x02],
      []⟩ := by decide

/-- VG3 `lpm r8,Z` -/
theorem test_VG3_lpmZ : after (start 0x0100 0x00 0x08FF [(8, 0x00), (30, 0x72), (31, 0x02)]
      [] [(0x0100, [0x9084]), (0x0139, [0x6D6D])]) [8, 30, 31]
      [] = some ⟨0x0101, 0x00, 0x08FF, false, [0x6D, 0x72, 0x02],
      []⟩ := by decide

/-- VG5 `lpm r16,Z+` -/
theorem test_VG5_lpmZInc : after (start 0x0100 0x00 0x08FF [(16, 0x00), (30, 0xFF), (31, 0x7F)]
      [] [(0x0100, [0x9105]), (0x3FFF, [0xABCD])]) [16, 30, 31]
      [] = some ⟨0x0101, 0x00, 0x08FF, false, [0xAB, 0x00, 0x80],
      []⟩ := by decide

/-- VG6 `lpm r16,Z` -/
theorem test_VG6_lpmZ : faultOf (start 0x0100 0x00 0x08FF [(16, 0x00), (30, 0x00), (31, 0x80)]
      [] [(0x0100, [0x9104])]) = some (.progAddressOutOfRange 0x0100#14 0x8000#16) := by decide

/-- VG7 `lpm r30,Z+` -/
theorem test_VG7_lpmZInc : faultOf (start 0x0100 0x00 0x08FF [(30, 0x70), (31, 0x02)]
      [] [(0x0100, [0x91E5]), (0x0138, [0x307E])]) = some (.undefinedOperandCombination 0x0100#14 0x91E5#16) := by decide

/-- VH1 `jmp 0x0123` -/
theorem test_VH1_jmp : after (start 0x0100 0xFF 0x08FF []
      [] [(0x0100, [0x940C, 0x0123])]) []
      [] = some ⟨0x0123, 0xFF, 0x08FF, false, [],
      []⟩ := by decide

/-- VH3 `jmp 0x4000` -/
theorem test_VH3_jmp : faultOf (start 0x0100 0x00 0x08FF []
      [] [(0x0100, [0x940C, 0x4000])]) = some (.targetOutOfRange 0x0100#14 0x4000) := by decide

/-- VH5 `call 0x0109` -/
theorem test_VH5_call : after (start 0x01A2 0x00 0x08FB []
      [] [(0x01A2, [0x940E, 0x0109])]) []
      [0x08FA, 0x08FB] = some ⟨0x0109, 0x00, 0x08F9, false, [],
      [some 0x01, some 0xA4]⟩ := by decide

/-- VH6 `call 0x0109` -/
theorem test_VH6_call : faultOf (start 0x01A2 0x00 0x0900 []
      [] [(0x01A2, [0x940E, 0x0109])]) = some (.dataAddressOutOfRange 0x01A2#14 0x0900#16 .write) := by decide

/-- VH8 `ijmp` -/
theorem test_VH8_ijmp : after (start 0x0100 0x00 0x08FF [(30, 0x09), (31, 0x01)]
      [] [(0x0100, [0x9409])]) [30, 31]
      [] = some ⟨0x0109, 0x00, 0x08FF, false, [0x09, 0x01],
      []⟩ := by decide

/-- VH9 `ijmp` -/
theorem test_VH9_ijmp : faultOf (start 0x0100 0x00 0x08FF [(30, 0x00), (31, 0x40)]
      [] [(0x0100, [0x9409])]) = some (.targetOutOfRange 0x0100#14 0x4000) := by decide

/-- VH10 `eijmp` -/
theorem test_VH10_eijmp : faultOf (start 0x0100 0x00 0x08FF [(30, 0x00), (31, 0x00)]
      [] [(0x0100, [0x9419])]) = some (.notOnThisDevice 0x0100#14 0x9419#16) := by decide

/-- VH11 `icall` -/
theorem test_VH11_icall : after (start 0x0010 0x00 0x08FF [(30, 0x00), (31, 0x02)]
      [] [(0x0010, [0x9509])]) [30, 31]
      [0x08FE, 0x08FF] = some ⟨0x0200, 0x00, 0x08FD, false, [0x00, 0x02],
      [some 0x00, some 0x11]⟩ := by decide

/-- VH12 `eicall` -/
theorem test_VH12_eicall : faultOf (start 0x0100 0x00 0x08FF [(30, 0x00), (31, 0x00)]
      [] [(0x0100, [0x9519])]) = some (.notOnThisDevice 0x0100#14 0x9519#16) := by decide

/-- VH13 `ret` -/
theorem test_VH13_ret : after (start 0x0100 0x00 0x08F9 []
      [(0x08FA, 0x01), (0x08FB, 0xA4)] [(0x0100, [0x9508])]) []
      [0x08FA, 0x08FB] = some ⟨0x01A4, 0x00, 0x08FB, false, [],
      [some 0x01, some 0xA4]⟩ := by decide

/-- VH14 `ret` -/
theorem test_VH14_ret : faultOf (start 0x0100 0x00 0x08F9 []
      [(0x08FA, 0x40), (0x08FB, 0x00)] [(0x0100, [0x9508])]) = some (.targetOutOfRange 0x0100#14 0x4000) := by decide

/-- VH16 `reti` -/
theorem test_VH16_reti : after (start 0x0100 0x02 0x08F9 []
      [(0x08FA, 0x01), (0x08FB, 0xA4)] [(0x0100, [0x9518])]) []
      [0x08FA, 0x08FB] = some ⟨0x01A4, 0x82, 0x08FB, true, [],
      [some 0x01, some 0xA4]⟩ := by decide

/-- VH17 `reti` -/
theorem test_VH17_reti : after (start 0x0100 0x80 0x08F9 []
      [(0x08FA, 0x01), (0x08FB, 0xA4)] [(0x0100, [0x9518])]) []
      [0x08FA, 0x08FB] = some ⟨0x01A4, 0x80, 0x08FB, false, [],
      [some 0x01, some 0xA4]⟩ := by decide

/-- VH18 `rjmp .+1` -/
theorem test_VH18_rjmp : after (start 0x02ED 0x00 0x08FF []
      [] [(0x02ED, [0xC001])]) []
      [] = some ⟨0x02EF, 0x00, 0x08FF, false, [],
      []⟩ := by decide

/-- VH19 `rjmp .-1` -/
theorem test_VH19_rjmp : after (start 0x0100 0x00 0x08FF []
      [] [(0x0100, [0xCFFF])]) []
      [] = some ⟨0x0100, 0x00, 0x08FF, false, [],
      []⟩ := by decide

/-- VH24 `rcall .+2` -/
theorem test_VH24_rcall : after (start 0x0100 0x00 0x08FF []
      [] [(0x0100, [0xD002])]) []
      [0x08FE, 0x08FF] = some ⟨0x0103, 0x00, 0x08FD, false, [],
      [some 0x01, some 0x01]⟩ := by decide

/-- VH25 `rcall .+0` -/
theorem test_VH25_rcall : after (start 0x3FFF 0x00 0x08FF []
      [] [(0x3FFF, [0xD000])]) []
      [0x08FE, 0x08FF] = some ⟨0x0000, 0x00, 0x08FD, false, [],
      [some 0x00, some 0x00]⟩ := by decide

/-- VH26 `breq .+2` -/
theorem test_VH26_brbs : after (start 0x02EB 0x02 0x08FF []
      [] [(0x02EB, [0xF011])]) []
      [] = some ⟨0x02EE, 0x02, 0x08FF, false, [],
      []⟩ := by decide

/-- VH27 `breq .+2` -/
theorem test_VH27_brbs : after (start 0x02EB 0xFD 0x08FF []
      [] [(0x02EB, [0xF011])]) []
      [] = some ⟨0x02EC, 0xFD, 0x08FF, false, [],
      []⟩ := by decide

/-- VH28 `brtc .-3` -/
theorem test_VH28_brbc : after (start 0x0114 0x00 0x08FF []
      [] [(0x0114, [0xF7EE])]) []
      [] = some ⟨0x0112, 0x00, 0x08FF, false, [],
      []⟩ := by decide

/-- VH29 `brtc .-3` -/
theorem test_VH29_brbc : after (start 0x0114 0x40 0x08FF []
      [] [(0x0114, [0xF7EE])]) []
      [] = some ⟨0x0115, 0x40, 0x08FF, false, [],
      []⟩ := by decide

/-- VI1 `nop` -/
theorem test_VI1_nop : after (start 0x0100 0xFF 0x08FF []
      [] [(0x0100, [0x0000])]) []
      [] = some ⟨0x0101, 0xFF, 0x08FF, false, [],
      []⟩ := by decide

/-- VI2 `nop` -/
theorem test_VI2_nop : after (start 0x3FFF 0x00 0x08FF []
      [] [(0x3FFF, [0x0000])]) []
      [] = some ⟨0x0000, 0x00, 0x08FF, false, [],
      []⟩ := by decide

/-- VI3 `sleep` -/
theorem test_VI3_sleep : after (start 0x0100 0x80 0x08FF []
      [] [(0x0100, [0x9588])]) []
      [] = some ⟨0x0101, 0x80, 0x08FF, false, [],
      []⟩ := by decide

/-- VI4 `break` -/
theorem test_VI4_brk : faultOf (start 0x0100 0x00 0x08FF []
      [] [(0x0100, [0x9598])]) = some (.debugOnly 0x0100#14) := by decide

/-- VI5 `wdr` -/
theorem test_VI5_wdr : after (start 0x0100 0x55 0x08FF []
      [] [(0x0100, [0x95A8])]) []
      [] = some ⟨0x0101, 0x55, 0x08FF, false, [],
      []⟩ := by decide

/-- VI6 `(reserved)` -/
theorem test_VI6_reserved : faultOf (start 0x0100 0x00 0x08FF []
      [] [(0x0100, [0x95B8])]) = some (.illegalOpcode 0x0100#14 0x95B8#16) := by decide

/-- VI7 `(reserved)` -/
theorem test_VI7_reserved : faultOf (start 0x0100 0x00 0x08FF []
      [] [(0x0100, [0xFFFF])]) = some (.illegalOpcode 0x0100#14 0xFFFF#16) := by decide

/-! ## WellFormed refuses -/

theorem test_wf_refuses_an_odd_movw : (Instr.movw 13#5 22#5).wf = false ∧ (Instr.movw 12#5 23#5).wf = false := by decide

theorem test_wf_refuses_a_low_muls : (Instr.muls 15#5 16#5).wf = false ∧ (Instr.muls 16#5 15#5).wf = false := by decide

theorem test_wf_refuses_mulsu_outside_r16_to_r23 :
    (Instr.mulsu 24#5 16#5).wf = false ∧ (Instr.mulsu 16#5 15#5).wf = false := by decide

theorem test_wf_refuses_fmul_outside_r16_to_r23 :
    (Instr.fmul 15#5 16#5).wf = false ∧ (Instr.fmul 16#5 24#5).wf = false := by decide

theorem test_wf_refuses_fmuls_outside_r16_to_r23 :
    (Instr.fmuls 24#5 16#5).wf = false ∧ (Instr.fmuls 16#5 15#5).wf = false := by decide

theorem test_wf_refuses_fmulsu_outside_r16_to_r23 :
    (Instr.fmulsu 15#5 16#5).wf = false ∧ (Instr.fmulsu 16#5 24#5).wf = false := by decide

theorem test_wf_refuses_an_immediate_on_a_low_register :
    ∀ i ∈ [Instr.cpi 15#5 0#8, .sbci 15#5 0#8, .subi 15#5 0#8, .ori 15#5 0#8, .andi 15#5 0#8, .ldi 15#5 0#8],
      i.wf = false := by decide

theorem test_wf_refuses_adiw_and_sbiw_off_the_four_pairs :
    ∀ i ∈ [Instr.adiw 22#5 0#6, .adiw 25#5 0#6, .sbiw 22#5 0#6, .sbiw 25#5 0#6], i.wf = false := by decide

/-! ## Device accesses, reset and the interface -/

/-- `cbi` reads its port once and writes it once (R207; the value read is the device's). -/
theorem test_cbi_events : ∃ t, step (start 0x0100 0x00 0x08FF [] [] [(0x0100, [0x982C])]) = .next t ∧
    t.events = [.write 0x0025#16 (Config.deviceRead [] 0x0025#16 &&& 0xEF#8), .read 0x0025#16] := ⟨_, rfl, rfl⟩

/-- `sbi` reads its port once and writes it once (R207). -/
theorem test_sbi_events : ∃ t, step (start 0x0100 0x00 0x08FF [] [] [(0x0100, [0x9A2D])]) = .next t ∧
    t.events = [.write 0x0025#16 (Config.deviceRead [] 0x0025#16 ||| 0x20#8), .read 0x0025#16] := ⟨_, rfl, rfl⟩

/-- `sleep` sets `asleep` (R312). -/
theorem test_sleep_sleeps : ∃ t, step (start 0x0100 0x00 0x08FF [] [] [(0x0100, [0x9588])]) = .next t ∧
    t.asleep = true := ⟨_, rfl, rfl⟩

/-- Nothing is in program memory at reset, so the first step is refused (D26). -/
theorem test_reset_has_no_program : step State.reset = .refused (.programUndefined 0) := rfl

/-- A table word placed by `withFetchWord` is what the next step runs: `ldi r30,0x70`, `jmp 0x0100`. -/
theorem test_withFetchWord_runs :
    step (State.reset.withFetchWord 16 0xE7E0) = exec (.ldi 30#5 0x70#8) (State.reset.withFetchWord 16 0xE7E0) ∧
    step (State.reset.withFetchWord 32 0x0100940C) = exec (.jmp 0x0100#22) (State.reset.withFetchWord 32 0x0100940C) :=
  ⟨rfl, rfl⟩

/-! ## Witnesses: a concrete state and operands for the hypotheses of each statement -/

/-- A state with pointers X = 0x0200, Y = 0x0210, Z = 0x0220 (registers 16 and 17 hold 0x80 and 0x7F) and C = 1. -/
def wit (pc sp : Nat) (words : List Nat) : State :=
  start pc 0x01 sp [(16, 0x80), (17, 0x7F), (26, 0x00), (27, 0x02), (28, 0x10), (29, 0x02), (30, 0x20), (31, 0x02)]
    [(0x0200, 0x55)] [(pc, words)]

/-- A state whose three pointers are all `p`. -/
def witPointers (p : Nat) : State :=
  start 0x0100 0x00 0x08FF [(26, p % 256), (27, p / 256), (28, p % 256), (29, p / 256), (30, p % 256), (31, p / 256)]
    [] []

/-- A state with I = 1 whose interrupt source gives the answers `l`. -/
def witIrq (sp : Nat) (l : List (Option IrqVector)) (words : List Nat) : State :=
  { start 0x3FFF 0x81 sp [] [] [(0x3FFF, words)] with irqAnswers := l }

/-- A state whose stack holds the return address `ra` above `sp`. -/
def witReturn (sp ra : Nat) : State :=
  start 0x0100 0x00 sp [] [(sp + 1, ra / 256), (sp + 2, ra % 256)] []

/-- The state one step leads to, or the same one. -/
def stepped (s : State) : State :=
  match step s with
  | .next t => t
  | _ => s

theorem test_witness_NoFirstWordMatchesTwoRows :
    0 < opcodeTable.length ∧ 87 < opcodeTable.length ∧ (opcodeTable.getD 0 ⟨"", 0, 0, fun _ _ => .nop⟩).accepts 0x0000#16 = true ∧
      (opcodeTable.getD 87 ⟨"", 0, 0, fun _ _ => .nop⟩).accepts 0xFFF7#16 = true := by decide

theorem test_witness_DecodeOfEncodeIsTheInstruction :
    ∀ i ∈ [Instr.ldi 31#5 0xFF#8, .movw 30#5 0#5, .adiw 24#5 63#6, .mulsu 23#5 16#5, .call 0x3FFFFF#22, .nop],
      i.wf = true := by decide

theorem test_witness_EncodeOfDecodeIsTheWords :
    decodeWords 0x95FF#16 0xFFFF#16 = .ok (.call 0x3FFFFF#22) ∧ decodeWords 0x0000#16 0x1234#16 = .ok .nop ∧
      ilen 0x95FF#16 = 2 ∧ ilen 0x0000#16 = 1 := ⟨rfl, rfl, rfl, rfl⟩

theorem test_witness_LengthComesFromTheFirstWord :
    ilen 0x9000#16 = 2 ∧ ilen 0x93F0#16 = 2 ∧ ilen 0x940C#16 = 2 ∧ ilen 0x95FF#16 = 2 ∧ ilen 0x9001#16 = 1 ∧
      ilen 0x0001#16 = 1 := by decide

/-- A first and a last word of the patterns of R130. -/
theorem test_reserved_words_below_0x9400 :
    dec 0x0001#16 0#16 = none ∧ dec 0x00FF#16 0#16 = none ∧ dec 0x9003#16 0#16 = none ∧ dec 0x91FB#16 0#16 = none ∧
    dec 0x9203#16 0#16 = none ∧ dec 0x93F4#16 0#16 = none := by decide

theorem test_reserved_words_from_0x9400 :
    dec 0x9404#16 0#16 = none ∧ dec 0x9429#16 0#16 = none ∧ dec 0x9528#16 0#16 = none ∧ dec 0x95FB#16 0#16 = none ∧
    dec 0xF808#16 0#16 = none ∧ dec 0xFFFF#16 0#16 = none := by decide

theorem test_witness_ReservedFirstWordsFaultIllegalOpcode :
    let s := wit 0x3FFF 0x08FF [0xFFFF]
    s.asleep = false ∧ (acceptanceTest s).1 = none ∧ programWord s.pc s = .next 0xFFFF#16 ∧
    decodeWords 0xFFFF#16 0#16 = .error (.reserved 0xFFFF#16) := ⟨rfl, rfl, rfl, rfl⟩

/-- A two-word instruction at the last word of program memory, the source polled and answering that there is nothing. -/
theorem test_witness_StepRunsTheDecodedInstruction :
    let s := witIrq 0x08FF [none] [0x940E, 0x0100]
    decodeBytes [0x0E#8, 0x94#8, 0x00#8, 0x01#8] = .ok (.call 0x0100#22, []) ∧
    (∀ (n : Nat) (h : n < 4), Memory.byteAt s.program ((2 * s.pc.toNat + n) % 0x8000) =
      some ([0x0E#8, 0x94#8, 0x00#8, 0x01#8][n]'h)) ∧
    s.asleep = false ∧ (acceptanceTest s).1 = none ∧ s.sreg.getLsbD 7 = true ∧ s.irqInhibit = false :=
  ⟨rfl, by decide, rfl, rfl, rfl, rfl⟩

/-- The same with a one-word instruction and I = 0. -/
theorem test_witness_StepRunsTheDecodedInstruction_not_polled :
    let s := wit 0x0100 0x08FF [0x0000]
    decodeBytes [0x00#8, 0x00#8] = .ok (.nop, []) ∧
    (∀ (n : Nat) (h : n < 2), Memory.byteAt s.program ((2 * s.pc.toNat + n) % 0x8000) =
      some ([0x00#8, 0x00#8][n]'h)) ∧
    s.asleep = false ∧ (acceptanceTest s).1 = none ∧ s.sreg.getLsbD 7 = false :=
  ⟨rfl, by decide, rfl, rfl, rfl⟩

/-- The stack at RAMEND, at its lowest address for two pushes, and on SPL, the corner of log entry 9. -/
theorem test_witness_StepEntersAnAcceptedInterrupt :
    ∀ sp ∈ [0x08FF, 0x0001, 0x005D],
      let s := witIrq sp [some .int0, none] []
      s.sreg.getLsbD 7 = true ∧ s.irqInhibit = false ∧ s.irqAnswers = [some .int0, none] ∧
        s.sp.toNat ≤ 0x08FF ∧ (s.highPushAt s.pc).toNat ≤ 0x08FF := by decide

theorem test_witness_VectorsStandTwoWordsApart :
    IrqVector.number .int0 = 2 ∧ IrqVector.number .spmReady = 26 := by decide

theorem test_witness_ASleepingCpuExecutesNothing :
    (let s := { wit 0x0100 0x08FF [] with asleep := true };
      s.asleep = true ∧ (acceptanceTest s).1 = none) ∧
    (let s := { witIrq 0x08FF [none, some .wdt] [] with asleep := true };
      s.asleep = true ∧ (acceptanceTest s).1 = none ∧ s.sreg.getLsbD 7 = true) := by decide

/-- `push r16` in a state with program, SRAM and I = 1. -/
theorem test_witness_StepKeepsTheInvariant :
    State.Inv { wit 0x0100 0x08FF [0x930F] with sreg := 0x80#8 } ∧
    step { wit 0x0100 0x08FF [0x930F] with sreg := 0x80#8 } =
      .next (stepped { wit 0x0100 0x08FF [0x930F] with sreg := 0x80#8 }) :=
  ⟨⟨by decide, by decide, by decide, by decide, by decide, by decide⟩, rfl⟩

theorem test_witness_NoStepChangesProgramMemory :
    step (wit 0x0100 0x08FF [0x930F]) = .next (stepped (wit 0x0100 0x08FF [0x930F])) := rfl

/-- One state falls asleep by `sleep`, one wakes by an interrupt. -/
theorem test_witness_OnlySleepSleepsAndOnlyAnInterruptWakes :
    (let s := wit 0x0100 0x08FF [0x9588];
      step s = .next (stepped s) ∧ s.asleep = false ∧ (stepped s).asleep = true) ∧
    (let s := { witIrq 0x08FF [some .twi] [] with asleep := true };
      step s = .next (stepped s) ∧ s.asleep = true ∧ (stepped s).asleep = false) :=
  ⟨⟨rfl, rfl, rfl⟩, rfl, rfl, rfl⟩

/-- One state for each clause: `sei` from I = 0, `nop` at I = 0, `nop` at I = 1 with a source that answers nothing. -/
theorem test_witness_EnablingInterruptsWaitsOneInstruction :
    (let s := wit 0x0100 0x08FF [0x9478];
      s.asleep = false ∧ (acceptanceTest s).1 = none ∧ step s = .next (stepped s) ∧ s.sreg.getLsbD 7 = false ∧
        (stepped s).sreg.getLsbD 7 = true) ∧
    (let s := wit 0x0100 0x08FF [0x0000];
      s.asleep = false ∧ (acceptanceTest s).1 = none ∧ step s = .next (stepped s) ∧
        (stepped s).sreg.getLsbD 7 = false) ∧
    (let s := witIrq 0x08FF [none, some .adc] [0x0000];
      s.asleep = false ∧ (acceptanceTest s).1 = none ∧ step s = .next (stepped s) ∧ s.sreg.getLsbD 7 = true ∧
        (stepped s).sreg.getLsbD 7 = true) :=
  ⟨⟨rfl, rfl, rfl, rfl, rfl⟩, ⟨rfl, rfl, rfl, rfl⟩, rfl, rfl, rfl, rfl, rfl⟩

/-- Where each range of R70 begins and ends. -/
theorem test_witness_DataAccessesFollowTheAddressMap :
    dataPlace 0x0000#16 = .reg 0#5 ∧ dataPlace 0x001F#16 = .reg 31#5 ∧ dataPlace 0x0020#16 = .device ∧
    dataPlace 0x005C#16 = .device ∧ dataPlace 0x005D#16 = .spl ∧ dataPlace 0x005E#16 = .sph ∧
    dataPlace 0x005F#16 = .sreg ∧ dataPlace 0x0060#16 = .device ∧ dataPlace 0x00FF#16 = .device ∧
    dataPlace 0x0100#16 = .sram ∧ dataPlace 0x08FF#16 = .sram ∧ dataPlace 0x0900#16 = .outside ∧
    dataPlace 0xFFFF#16 = .outside := by decide

theorem test_witness_AReadGivesTheLastValueWritten :
    ∀ a ∈ [0x0000#16, 0x001F#16, 0x005D#16, 0x005E#16, 0x005F#16, 0x0100#16, 0x08FF#16],
      (∃ t, memWrite a 0xA5#8 (wit 0x0100 0x08FF []) = .next t) ∧ dataPlace a ≠ .device ∧ (0x01FF#16 : DataAddr) ≠ a := by
  simp only [List.forall_mem_cons]
  exact ⟨⟨⟨_, rfl⟩, by decide⟩, ⟨⟨_, rfl⟩, by decide⟩, ⟨⟨_, rfl⟩, by decide⟩, ⟨⟨_, rfl⟩, by decide⟩,
    ⟨⟨_, rfl⟩, by decide⟩, ⟨⟨_, rfl⟩, by decide⟩, ⟨⟨_, rfl⟩, by decide⟩, nofun⟩

/-- Every clause at the first address above the data space. -/
theorem test_witness_AddressesAboveRamendFault :
    0x08FF < (0x0900#16 : DataAddr).toNat ∧
    (∀ p ∈ [Pointer.y, .z], (witPointers 0x08C1).pointer p + (63#6 : BitVec 6).setWidth 16 = 0x0900#16) ∧
    (witPointers 0x0900).pointer .x = 0x0900#16 ∧
    (∀ p ∈ [Pointer.x, .y, .z], p.owns 16#5 = false ∧
      updateAddr .postIncrement p (witPointers 0x0900) = 0x0900#16 ∧
      updateAddr .preDecrement p (witPointers 0x0901) = 0x0900#16 ∧
      updateAddr .preDecrement p (witPointers 0x0000) = 0xFFFF#16) ∧
    0x08FF < (wit 0x0100 0x0900 []).sp.toNat ∧ 0x08FF < ((wit 0x0100 0x08FF []).sp + 1#16).toNat := by decide

/-- Both sides of the equivalence occur for each pointer, and the plain forms are in their list. -/
theorem test_witness_UndefinedPointerCombinationsFault :
    (Pointer.x, Instr.stXDec 27#5) ∈ [(Pointer.x, Instr.ldXInc 27#5), (.x, .ldXDec 27#5), (.x, .stXInc 27#5),
      (.x, .stXDec 27#5)] ∧
    faultOf (start 0x0100 0 0x08FF [] [] [(0x0100, [0x93BE])]) = some (.undefinedOperandCombination 0x0100#14 0x93BE#16) ∧
    faultOf (start 0x0100 0 0x08FF [(26, 1), (27, 1)] [] [(0x0100, [0x939E])]) = none ∧
    Instr.ldX 26#5 ∈ [Instr.ldX 26#5, .lddY 26#5 0#6] := by decide

theorem test_witness_AddAndAdcAreSumsWithSixFlags :
    ∀ p ∈ [(Instr.add 16#5 17#5, false), (.adc 16#5 17#5, true)],
      p ∈ [(Instr.add 16#5 17#5, false), (.adc 16#5 17#5, (wit 0 0x08FF []).flags.c)] := by decide

theorem test_witness_SubtractsAreDifferencesWithSixFlags :
    ∀ p ∈ [(Instr.sub 16#5 17#5, 0x7F#8, false, false), (.sbc 16#5 17#5, 0x7F#8, true, true),
      (.subi 16#5 5#8, 5#8, false, false), (.sbci 16#5 5#8, 5#8, true, true)],
      let s := wit 0 0x08FF []
      p ∈ [(Instr.sub 16#5 17#5, s.reg 17#5, false, false), (.sbc 16#5 17#5, s.reg 17#5, s.flags.c, true),
        (.subi 16#5 5#8, 5#8, false, false), (.sbci 16#5 5#8, 5#8, s.flags.c, true)] := by decide

theorem test_witness_ComparesSetTheFlagsOfTheDifference :
    ∀ p ∈ [(Instr.cp 16#5 17#5, 0x7F#8, false, false), (.cpc 16#5 17#5, 0x7F#8, true, true),
      (.cpi 16#5 5#8, 5#8, false, false)],
      let s := wit 0 0x08FF []
      p ∈ [(Instr.cp 16#5 17#5, s.reg 17#5, false, false), (.cpc 16#5 17#5, s.reg 17#5, s.flags.c, true),
        (.cpi 16#5 5#8, 5#8, false, false)] := by decide

/-- 0x80 against 0x7F: higher unsigned, less signed; and a register against itself. -/
theorem test_witness_BranchesAfterACompareOrderTheOperands :
    ∀ r ∈ [17#5, 16#5], ∃ t, exec (.cp 16#5 r) (wit 0 0x08FF []) = .next t := by
  simp only [List.forall_mem_cons]
  exact ⟨⟨_, rfl⟩, ⟨_, rfl⟩, nofun⟩

theorem test_witness_CpThenCpcComparesSixteenBits :
    ∃ t u, exec (.cp 26#5 28#5) (wit 0 0x08FF []) = .next t ∧ exec (.cpc 27#5 29#5) t = .next u := ⟨_, _, rfl, rfl⟩

theorem test_witness_LogicResultsAndTheirFlags :
    ∀ p ∈ [(Instr.and 16#5 17#5, 0x00#8), (.andi 16#5 0xF0#8, 0x80#8), (.or 16#5 17#5, 0xFF#8),
      (.ori 16#5 0x01#8, 0x81#8), (.eor 16#5 16#5, 0x00#8)],
      let s := wit 0 0x08FF []
      p ∈ [(Instr.and 16#5 17#5, s.reg 16#5 &&& s.reg 17#5), (.andi 16#5 0xF0#8, s.reg 16#5 &&& 0xF0#8),
        (.or 16#5 17#5, s.reg 16#5 ||| s.reg 17#5), (.ori 16#5 0x01#8, s.reg 16#5 ||| 0x01#8),
        (.eor 16#5 16#5, s.reg 16#5 ^^^ s.reg 16#5)] := by decide

theorem test_witness_ShiftsHalveIntoTheCarry :
    let s := wit 0 0x08FF []
    (Instr.asr 16#5 = .asr 16#5 ∧ (0xC0#8).toInt = (s.reg 16#5).toInt / 2) ∧
    (Instr.lsr 17#5 = .lsr 17#5 ∧ (0x3F#8).toNat = (s.reg 17#5).toNat / 2) ∧
    (Instr.ror 17#5 = .ror 17#5 ∧ (0xBF#8).toNat = (256 * s.flags.c.toNat + (s.reg 17#5).toNat) / 2) := by decide

theorem test_witness_NineRotationsRestoreTheRegister :
    ∃ s1 s2 s3 s4 s5 s6 s7 s8 s9,
      exec (.ror 17#5) (wit 0 0x08FF []) = .next s1 ∧ exec (.ror 17#5) s1 = .next s2 ∧
      exec (.ror 17#5) s2 = .next s3 ∧ exec (.ror 17#5) s3 = .next s4 ∧ exec (.ror 17#5) s4 = .next s5 ∧
      exec (.ror 17#5) s5 = .next s6 ∧ exec (.ror 17#5) s6 = .next s7 ∧ exec (.ror 17#5) s7 = .next s8 ∧
      exec (.ror 17#5) s8 = .next s9 := ⟨_, _, _, _, _, _, _, _, _, rfl, rfl, rfl, rfl, rfl, rfl, rfl, rfl, rfl⟩

theorem test_witness_MultipliesGiveTheExactProduct :
    let s := wit 0 0x08FF []
    (Instr.mul 16#5 17#5 = .mul 16#5 17#5 ∧ (0x3F80#16).toNat = (s.reg 16#5).toNat * (s.reg 17#5).toNat) ∧
    (Instr.muls 16#5 16#5 = .muls 16#5 16#5 ∧ (0x4000#16).toInt = (s.reg 16#5).toInt * (s.reg 16#5).toInt) ∧
    (Instr.mulsu 16#5 16#5 = .mulsu 16#5 16#5 ∧ (0xC000#16).toInt = (s.reg 16#5).toInt * (s.reg 16#5).toNat) := by
  decide

theorem test_witness_FractionalMultipliesShiftTheProduct :
    ∀ p ∈ [(Instr.fmul 16#5 17#5, (16256 : Int)), (.fmuls 16#5 17#5, -16256), (.fmulsu 16#5 17#5, -16256)],
      let s := wit 0 0x08FF []
      p ∈ [(Instr.fmul 16#5 17#5, ((s.reg 16#5).toNat : Int) * (s.reg 17#5).toNat),
        (.fmuls 16#5 17#5, (s.reg 16#5).toInt * (s.reg 17#5).toInt),
        (.fmulsu 16#5 17#5, (s.reg 16#5).toInt * (s.reg 17#5).toNat)] := by decide

theorem test_witness_WordAddAndSubtractImmediate :
    ∀ p ∈ [(Instr.adiw 26#5 63#6, (575 : Int), (575 : Int)), (.sbiw 26#5 63#6, 449, 449)],
      let s := wit 0 0x08FF []
      p ∈ [(Instr.adiw 26#5 63#6, ((s.pair 26#5).toNat : Int) + (63#6 : BitVec 6).toNat,
          (s.pair 26#5).toInt + (63#6 : BitVec 6).toNat),
        (.sbiw 26#5 63#6, ((s.pair 26#5).toNat : Int) - (63#6 : BitVec 6).toNat,
          (s.pair 26#5).toInt - (63#6 : BitVec 6).toNat)] := by decide

/-- Every form with its condition true and one with it false, the device's answer being what it is; and a one-word, a
two-word and a reserved word after the skip, the last from word 0 across the end of memory. -/
theorem test_witness_SkipsPassTheNextInstruction :
    let s := wit 0x0100 0x08FF [0xFC00, 0x0000]
    (∀ p ∈ [(Instr.cpse 16#5 16#5, true, s.events, 0x1300#16), (.sbrc 17#5 7#3, true, s.events, 0xFD17#16),
        (.sbrs 16#5 7#3, true, s.events, 0xFF07#16), (.sbrs 17#5 7#3, false, s.events, 0xFF17#16)],
      p ∈ [(Instr.cpse 16#5 16#5, decide (s.reg 16#5 = s.reg 16#5), s.events, 0x1300#16),
        (.sbrc 17#5 7#3, !(s.reg 17#5).getLsbD 7, s.events, 0xFD17#16),
        (.sbrs 16#5 7#3, (s.reg 16#5).getLsbD 7, s.events, 0xFF07#16),
        (.sbrs 17#5 7#3, (s.reg 17#5).getLsbD 7, s.events, 0xFF17#16)]) ∧
    programWord 0x0101#14 s = .next 0x0000#16 ∧
    programWord 0x0101#14 (wit 0x0100 0x08FF [0xFC00, 0x940C]) = .next 0x940C#16 ∧
    programWord 0x0000#14 (wit 0x3FFF 0x08FF [0xFC00, 0xFFFF]) = .next 0xFFFF#16 := ⟨by decide, rfl, rfl, rfl⟩

/-- One of `sbic` and `sbis` skips, whatever the device answers. -/
theorem test_witness_SkipsPassTheNextInstruction_io :
    let x := (Config.deviceRead [] 0x0023#16).getLsbD 4
    (x = true ∧ (!x) = false) ∨ (x = false ∧ (!x) = true) := by
  cases (Config.deviceRead [] 0x0023#16).getLsbD 4 <;> simp

theorem test_witness_InReadsAndOutWritesTheIoRegister :
    (0x3F#6 ≠ 0x3E#6) ∧ (0x3C#6 : BitVec 6).toNat < 0x3D := by decide

theorem test_witness_CbiAndSbiRewriteOneIoByte :
    ∀ p ∈ [(Instr.cbi 0x1F#5 7#3, false), (.sbi 0x1F#5 7#3, true)],
      p ∈ [(Instr.cbi 0x1F#5 7#3, false), (.sbi 0x1F#5 7#3, true)] := by decide

theorem test_witness_BsetAndBclrWriteOneSregBit :
    ∀ p ∈ [(Instr.bset 7#3, true), (.bclr 7#3, false)], p ∈ [(Instr.bset 7#3, true), (.bclr 7#3, false)] := by decide

/-- Every form at the last address of the data space, the pointers' own registers as destination among them. -/
theorem test_witness_LoadsReadOneByte :
    ∀ p ∈ [(Instr.lds 16#5 0x08FF#16, 0x08FF#16, 2#14, [0x9100#16, 0x08FF#16]),
        (.lddZ 30#5 63#6, 0x08FF#16, 1#14, [0xADE7#16]), (.lddY 29#5 63#6, 0x08FF#16, 1#14, [0xADDF#16]),
        (.ldX 26#5, 0x08C0#16, 1#14, [0x91AC#16])],
      let s := witPointers 0x08C0
      let q := 63#6
      p ∈ [(Instr.lds 16#5 0x08FF#16, 0x08FF#16, 2#14, [0b1001000#7 ++ 16#5 ++ 0b0000#4, 0x08FF#16]),
        (.lddZ 30#5 q, (s.reg 31#5 ++ s.reg 30#5 : Word) + q.setWidth 16, 1#14,
          [0b10#2 ++ q.extractLsb' 5 1 ++ 0#1 ++ q.extractLsb' 3 2 ++ 0#1 ++ 30#5 ++ 0#1 ++ q.extractLsb' 0 3]),
        (.lddY 29#5 q, (s.reg 29#5 ++ s.reg 28#5 : Word) + q.setWidth 16, 1#14,
          [0b10#2 ++ q.extractLsb' 5 1 ++ 0#1 ++ q.extractLsb' 3 2 ++ 0#1 ++ 29#5 ++ 1#1 ++ q.extractLsb' 0 3]),
        (.ldX 26#5, (s.reg 27#5 ++ s.reg 26#5 : Word), 1#14, [0b1001000#7 ++ 26#5 ++ 0b1100#4])] ∧
      p.2.1.toNat ≤ 0x08FF := by decide

/-- The first address above the data space. -/
theorem test_witness_LoadsReadOneByte_fault :
    ((witPointers 0x08C1).pair 30#5 + (63#6).setWidth 16).toNat = 0x0900 ∧ 0x08FF < (0x0900#16).toNat := by decide

/-- The last address with a later pointer, and, before a decrement, the first address. -/
theorem test_witness_LoadsWithUpdateMoveThePointer :
    ∀ low ∈ [26#5, 28#5, 30#5], 16#5 ≠ low ∧ 16#5 ≠ low + 1#5 ∧
      ((witPointers 0x08FF).pair low + 0#16).toNat = 0x08FF ∧
      ((witPointers 0x0900).pair low + 0xFFFF#16).toNat = 0x08FF ∧
      ((witPointers 0x0001).pair low + 0xFFFF#16).toNat = 0 := by decide

theorem test_witness_StoresWriteOneByte :
    ∀ p ∈ [(Instr.sts 0x08FF#16 16#5, 0x08FF#16, 2#14, [0x9300#16, 0x08FF#16]),
        (.stdZ 63#6 30#5, 0x08FF#16, 1#14, [0xAFE7#16]), (.stdY 63#6 29#5, 0x08FF#16, 1#14, [0xAFDF#16]),
        (.stX 26#5, 0x08C0#16, 1#14, [0x93AC#16])],
      let s := witPointers 0x08C0
      let q := 63#6
      p ∈ [(Instr.sts 0x08FF#16 16#5, 0x08FF#16, 2#14, [0b1001001#7 ++ 16#5 ++ 0b0000#4, 0x08FF#16]),
        (.stdZ q 30#5, (s.reg 31#5 ++ s.reg 30#5 : Word) + q.setWidth 16, 1#14,
          [0b10#2 ++ q.extractLsb' 5 1 ++ 0#1 ++ q.extractLsb' 3 2 ++ 1#1 ++ 30#5 ++ 0#1 ++ q.extractLsb' 0 3]),
        (.stdY q 29#5, (s.reg 29#5 ++ s.reg 28#5 : Word) + q.setWidth 16, 1#14,
          [0b10#2 ++ q.extractLsb' 5 1 ++ 0#1 ++ q.extractLsb' 3 2 ++ 1#1 ++ 29#5 ++ 1#1 ++ q.extractLsb' 0 3]),
        (.stX 26#5, (s.reg 27#5 ++ s.reg 26#5 : Word), 1#14, [0b1001001#7 ++ 26#5 ++ 0b1100#4])] ∧
      p.2.1.toNat ≤ 0x08FF := by decide

theorem test_witness_StoresWriteOneByte_fault :
    ((witPointers 0x08C1).pair 28#5 + (63#6).setWidth 16).toNat = 0x0900 ∧ 0x08FF < (0x0900#16).toNat := by decide

/-- The last address, and the pointer's own low register as the byte stored to. -/
theorem test_witness_StoresWithUpdateMoveThePointer :
    (∀ low ∈ [26#5, 28#5, 30#5], 16#5 ≠ low ∧ 16#5 ≠ low + 1#5 ∧
      ((witPointers 0x08FF).pair low + 0#16).toNat = 0x08FF ∧
      ((witPointers 0x0900).pair low + 0xFFFF#16).toNat = 0x08FF) ∧
    ((witPointers 0x001A).pair 26#5 + 0#16).toNat = 26 := by decide

theorem test_witness_PushStoresThenDecrements :
    ∀ sp ∈ [0x0000, 0x005D, 0x005E, 0x0100, 0x08FF], (wit 0x0100 sp []).sp.toNat ≤ 0x08FF := by decide

/-- SP + 1 at the first and the last address, and on SPL and on SPH. -/
theorem test_witness_PopIncrementsThenLoads :
    (∀ sp ∈ [0xFFFF, 0x00FF, 0x08FE, 0x005C, 0x005D], ((wit 0x0100 sp []).sp + 1#16).toNat ≤ 0x08FF) ∧
    (wit 0 0x08FE []).sp + 1#16 ∉ [Config.splAddr, Config.sphAddr] ∧
    (wit 0 0x005C []).sp + 1#16 = Config.splAddr ∧ (wit 0 0x005D []).sp + 1#16 = Config.sphAddr := by decide

/-- A pop of SPL itself, SP = 0x005C, reads 0x5D: the increment precedes the read (R12, R80). -/
theorem test_popByte_of_spl :
    popByte (wit 0 0x005C []) = .next (0x5D#8, (wit 0 0x005C []).withSp 0x005D#16) := rfl

theorem test_witness_PushThenPopRestores :
    (∃ t, exec (.push 16#5) (wit 0x0100 0x0100 []) = .next t) ∧
    (∃ t, exec (.push 16#5) (wit 0x0100 0x08FF []) = .next t) ∧
    0x0100 ≤ (wit 0x0100 0x0100 []).sp.toNat ∧ (wit 0x0100 0x08FF []).sp.toNat ≤ 0x08FF :=
  ⟨⟨_, rfl⟩, ⟨_, rfl⟩, by decide, by decide⟩

/-- The two bytes of the last program word; and one byte alone, its neighbour undefined. -/
theorem test_witness_LpmReadsOneProgramByte :
    (∀ z ∈ [(0x7FFE, 0xCD#8), (0x7FFF, 0xAB#8)],
      let s := { witPointers z.1 with program := (wit 0x3FFF 0x08FF [0xABCD]).program }
      (s.pair 30#5).toNat < 0x8000 ∧ Memory.byteAt s.program (s.pair 30#5).toNat = some z.2) ∧
    (let s := { witPointers 0x0011 with program := [(0x0011, 0x5A#8)] };
      Memory.byteAt s.program (s.pair 30#5).toNat = some 0x5A#8 ∧ Memory.byteAt s.program 0x0010 = none) := by decide

theorem test_witness_LpmReadsOneProgramByte_word :
    programWord (BitVec.ofNat 14 (((witPointers 0x7FFF).pair 30#5).toNat / 2))
      { witPointers 0x7FFF with program := (wit 0x3FFF 0x08FF [0xABCD]).program } = .next 0xABCD#16 := rfl

theorem test_witness_LpmFaults :
    0x3FFF < ((witPointers 0x8000).pair 30#5).toNat / 2 ∧ 0x3FFF < ((witPointers 0xFFFF).pair 30#5).toNat / 2 ∧
      16#5 ≠ 30#5 ∧ 16#5 ≠ 31#5 := by decide

theorem test_witness_AbsoluteTargetsOutOfRangeFault :
    0x4000 ≤ (0x004000#22).toNat ∧ 0x4000 ≤ ((witPointers 0x4000).pair 30#5).toNat ∧
    ((witReturn 0x08FD 0x4000).sp + 1#16).toNat ≤ 0x08FF ∧ ((witReturn 0x08FD 0x4000).sp + 2#16).toNat ≤ 0x08FF ∧
    0x4000 ≤ (witReturn 0x08FD 0x4000).poppedWord.toNat := by decide

/-- With the stack at RAMEND, on SPL, and at the lowest address that takes two bytes. -/
theorem test_witness_CallsPushTheReturnAddress :
    ∀ sp ∈ [0x0001, 0x005D, 0x08FF],
      (wit 0x0100 sp []).sp.toNat ≤ 0x08FF ∧
      ((wit 0x0100 sp []).highPushAt ((wit 0x0100 sp []).pc + 1#14)).toNat ≤ 0x08FF ∧
      ((wit 0x0100 sp []).highPushAt ((wit 0x0100 sp []).pc + 2#14)).toNat ≤ 0x08FF := by decide

theorem test_witness_CallsPushTheReturnAddress_targets :
    (0x003FFF#22).toNat < 0x4000 ∧ ((witPointers 0x3FFF).pair 30#5).toNat < 0x4000 ∧
    (witPointers 0x3FFF).sp.toNat ≤ 0x08FF ∧
    ((witPointers 0x3FFF).highPushAt ((witPointers 0x3FFF).pc + 1#14)).toNat ≤ 0x08FF := by decide

/-- Each call and an interrupt entry, with the stack at both ends of the range. -/
theorem test_witness_AReturnAddressOnTheStack :
    (∀ sp ∈ [0x0101, 0x08FF], ∀ i ∈ [Instr.call 0x3FFF#22, .icall, .rcall 0x7FF#12],
      let s := wit 0x3FFF sp []
      0x0101 ≤ s.sp.toNat ∧ s.sp.toNat ≤ 0x08FF ∧
        (match exec i s with | .next _ => true | _ => false) = true) ∧
    (∀ sp ∈ [0x0101, 0x08FF],
      let s := witIrq sp [some .int0] []
      (acceptanceTest s).1 = some .int0 ∧ (match step s with | .next _ => true | _ => false) = true) := by decide

theorem test_witness_ReturnsPopTheReturnAddress :
    let s := witReturn 0x08FD 0x3FFF
    (s.sp + 1#16).toNat ≤ 0x08FF ∧ (s.sp + 2#16).toNat ≤ 0x08FF ∧ s.poppedWord.toNat < 0x4000 := by decide

/-- The high byte popped is SPH itself (0x00) and the low one SREG (0x01). -/
theorem test_witness_ReturnsPopTheReturnAddress_sph : (wit 0x0100 0x005D []).poppedWord = 0x0001#16 := by decide

/-- Each clause at its boundary: SP + 1 or SP + 2 is 0x0900, SP is 0x0900, the second push is at 0xFFFF. -/
theorem test_witness_StackOutsideTheDataSpaceFaults :
    0x08FF < ((wit 0 0x08FF []).sp + 1#16).toNat ∧
    ((wit 0 0x08FE []).sp + 1#16).toNat ≤ 0x08FF ∧ 0x08FF < ((wit 0 0x08FE []).sp + 2#16).toNat ∧
    (0x003FFF#22).toNat < 0x4000 ∧ ((wit 0 0 []).pair 30#5).toNat < 0x4000 ∧
    0x08FF < (wit 0 0x0900 []).sp.toNat ∧ (wit 0 0x0000 []).sp.toNat ≤ 0x08FF ∧
    0x08FF < ((wit 0 0x0000 []).highPushAt ((wit 0 0x0000 []).pc + 1#14)).toNat ∧
    0x08FF < ((wit 0 0x0000 []).highPushAt ((wit 0 0x0000 []).pc + 2#14)).toNat ∧
    (acceptanceTest (witIrq 0x0900 [some .twi] [])).1 = some .twi ∧ 0x08FF < (witIrq 0x0900 [some .twi] []).sp.toNat ∧
    (acceptanceTest (witIrq 0x0000 [some .twi] [])).1 = some .twi ∧ (witIrq 0x0000 [some .twi] []).sp.toNat ≤ 0x08FF ∧
    0x08FF < ((witIrq 0x0000 [some .twi] []).highPushAt (witIrq 0x0000 [some .twi] []).pc).toNat := by
  decide

theorem test_witness_CallThenRetComesBack :
    ∀ sp ∈ [0x0101, 0x08FF],
      let s := wit 0x3FFF sp []
      0x0101 ≤ s.sp.toNat ∧ s.sp.toNat ≤ 0x08FF ∧ (∃ t, exec (.call 0x0200#22) s = .next t) := by
  simp only [List.forall_mem_cons]
  exact ⟨⟨by decide, by decide, _, rfl⟩, ⟨by decide, by decide, _, rfl⟩, nofun⟩

theorem test_witness_InterruptThenRetiComesBack :
    ∀ sp ∈ [0x0101, 0x08FF],
      let s := witIrq sp [] []
      0x0101 ≤ s.sp.toNat ∧ s.sp.toNat ≤ 0x08FF ∧ (∃ t, interruptEntry .usartRx s = .next t) := by
  simp only [List.forall_mem_cons]
  exact ⟨⟨by decide, by decide, _, rfl⟩, ⟨by decide, by decide, _, rfl⟩, nofun⟩

theorem test_witness_JumpsAndBranchesGoToTheirTarget :
    (0x003FFF#22).toNat ≤ 0x3FFF ∧ 0x3FFF < (0x004000#22).toNat ∧
    ((witPointers 0x3FFF).reg 31#5 ++ (witPointers 0x3FFF).reg 30#5 : Word).toNat ≤ 0x3FFF ∧
    0x3FFF < ((witPointers 0x4000).reg 31#5 ++ (witPointers 0x4000).reg 30#5 : Word).toNat := by decide

/-- A next state for one instruction of every row of the table of R26 that has one. -/
theorem test_witness_EveryInstructionAdvancesPcAsTabled :
    (∀ i ∈ [Instr.add 16#5 17#5, .sts 0x0200#16 16#5, .jmp 0x0123#22, .call 0x0123#22, .rjmp 0x800#12, .rcall 0x7FF#12,
        .ijmp, .icall, .brbs 0#3 0x40#7, .brbs 1#3 0x40#7, .brbc 0#3 0x3F#7, .brbc 1#3 0x3F#7, .sleep],
      (match exec i (wit 0x3FFF 0x08FF [0, 0x940C]) with | .next _ => true | _ => false) = true) ∧
    (∀ i ∈ [Instr.cpse 16#5 16#5, .cpse 16#5 17#5, .sbrc 17#5 7#3, .sbrc 16#5 7#3, .sbrs 16#5 7#3, .sbrs 17#5 7#3],
      (match exec i (wit 0x3FFF 0x08FF [0, 0x940C]) with | .next _ => true | _ => false) = true) ∧
    (∀ i ∈ [Instr.ret, .reti],
      (match exec i (witReturn 0x08FD 0x3FFF) with | .next _ => true | _ => false) = true) := by decide

end Sys2Proof.Tests
end

section
/-! SUPPORT. The pop of one byte into a register (spec R12, R34, R80, R260, R264): obligation O46. -/

namespace Sys2Proof.Machine

/-! ### The bytes of SP, read as data -/

/-- A read of SPL gives the low byte of SP (R33, R70). -/
@[simp] theorem State.readByte_splAddr (s : State) : s.readByte Config.splAddr = lowByte s.sp := rfl

/-- A read of SPH gives the high byte of SP (R33, R70). -/
@[simp] theorem State.readByte_sphAddr (s : State) : s.readByte Config.sphAddr = highByte s.sp := rfl

/-- A pop of SPL reads it in the SP already moved to it (log entry 23). -/
theorem State.poppedByte_of_spl {s : State} (h : s.sp + 1#16 = Config.splAddr) : s.poppedByte = 0x5D#8 := by
  rw [State.poppedByte, h, State.readByte_splAddr, State.withSp_sp]
  decide

/-- A pop of SPH reads it in the SP already moved to it (log entry 23). -/
theorem State.poppedByte_of_sph {s : State} (h : s.sp + 1#16 = Config.sphAddr) : s.poppedByte = 0x00#8 := by
  rw [State.poppedByte, h, State.readByte_sphAddr, State.withSp_sp]
  decide

/-! ### The instruction -/

/-- Writing one register and moving `pc` on changes nothing else. -/
theorem regFrame_setReg_advance (s : State) (d : Reg) (v : Byte) (n : Nat) :
    RegFrame s ((s.setReg d v).advance n) [d] 0#8 where
  regs r hr := by
    rw [State.advance_reg, State.setReg_reg_of_ne s v (List.ne_of_not_mem_cons hr)]
  flags _ _ := rfl
  sp := rfl
  sram _ := rfl
  program _ := rfl
  irqInhibit := rfl
  asleep := rfl
  irqAnswers := rfl
  events := rfl

theorem exec_pop (d : Reg) (s : State) : exec (.pop d) s = execPop d s := rfl

/-- The next state of a pop inside the data space. -/
theorem execPop_inside (d : Reg) (s : State) (h : (s.sp + 1#16).toNat ≤ 0x08FF) :
    execPop d s = .next ((s.afterPop.setReg d s.poppedByte).advance 1) := by
  rw [execPop, popByte_inside s h, andThen_next]

/-- Settles O46: `Rd` holds the popped byte, and the clauses on it split by whether SP + 1 is SPL, SPH or another
address. -/
theorem popIncrementsThenLoads : Obligations.PopIncrementsThenLoads := by
  intro s d h
  have hreg : ((s.afterPop.setReg d s.poppedByte).advance 1).reg d = s.poppedByte := by simp
  refine ⟨_, (exec_pop d s).trans (execPop_inside d s h), hreg, ?elsewhere, ?spl, ?sph, rfl, rfl,
    regFrame_setReg_advance s.afterPop d s.poppedByte 1⟩
  case elsewhere => exact fun hne => hreg.trans (s.poppedByte_eq_readByte hne)
  case spl => exact fun he => hreg.trans (State.poppedByte_of_spl he)
  case sph => exact fun he => hreg.trans (State.poppedByte_of_sph he)

end Sys2Proof.Machine
end

section
/-! SUPPORT. The push of one byte, alone and before a pop (spec R34, R80, R260, R263, R264): obligations O45 and O47. -/

namespace Sys2Proof.Machine

/-! ### What moving `pc` on leaves of what was said before -/

/-- Moving `pc` changes nothing that `DataFrame` speaks of. -/
theorem DataFrame.withPc {s t : State} {ws : List DataAddr} (h : DataFrame s t ws) (a : ProgAddr) :
    DataFrame s (t.withPc a) ws := ⟨h.bytes, h.program, h.asleep, h.irqAnswers⟩

/-- Moving `pc` on changes nothing that `ByteStored` speaks of. -/
theorem ByteStored.advance {s t : State} {a : DataAddr} {v : Byte} {also : List DataAddr}
    (h : ByteStored s t a v also) (n : Nat) : ByteStored s (t.advance n) a v also :=
  ⟨h.stored, h.frame.withPc _, h.events, h.irqInhibit⟩

/-! ### The instruction -/

theorem exec_push (r : Reg) (s : State) : exec (.push r) s = execPush r s := rfl

/-- A push that completes, and `pc` moved on. -/
theorem exec_push_of_pushByte {r : Reg} {s u : State} (h : pushByte (s.reg r) s = .next u) :
    exec (.push r) s = .next (u.advance 1) := by
  rw [exec_push, execPush, h, andThen_next]

/-- A store that does not point at SPL or SPH leaves SP where it was. -/
theorem spAfterStore_of_ne {sp : Word} (v : Byte) (hl : sp ≠ Config.splAddr) (hh : sp ≠ Config.sphAddr) :
    spAfterStore sp v = sp := by
  rw [spAfterStore, if_neg hl, if_neg hh]

/-- Settles O45: the push of one byte inside the data space, and `pc` moved on. -/
theorem pushStoresThenDecrements : Obligations.PushStoresThenDecrements := by
  intro s r h
  obtain ⟨u, hu, hsp, hpc, hstored⟩ := pushByte_inside s (s.reg r) h
  refine ⟨_, exec_push_of_pushByte hu, hsp, ?pc, hstored.advance 1, ?elsewhere⟩
  case pc => rw [State.advance_pc, hpc]
  case elsewhere =>
    intro hl hh
    rw [State.advance_sp, hsp, spAfterStore_of_ne _ hl hh]

/-! ### A stack in SRAM -/

/-- A write to SRAM stores the byte there. -/
theorem memWrite_of_sram {a : DataAddr} (v : Byte) (s : State) (h : dataPlace a = .sram) :
    memWrite a v s = .next (s.storeSram a.toNat v) := by
  simp only [memWrite, h]

/-- A read of SRAM gives the byte stored there. -/
theorem State.readByte_of_sram {a : DataAddr} (s : State) (h : dataPlace a = .sram) :
    s.readByte a = s.sramByte a.toNat := by
  simp only [State.readByte, State.dataByte, h, Option.getD_some]

/-- An SRAM address is that of no byte of SP. -/
theorem not_mem_sp_of_sram {a : DataAddr} (h : dataPlace a = .sram) : a ∉ [Config.splAddr, Config.sphAddr] := by
  have hl : a ≠ Config.splAddr := by rintro rfl; cases h
  have hh : a ≠ Config.sphAddr := by rintro rfl; cases h
  simp [hl, hh]

/-- The state after `push Rr` on a stack in SRAM. -/
def State.afterSramPush (s : State) (r : Reg) : State :=
  ((s.storeSram s.sp.toNat (s.reg r)).withSp (s.sp - 1#16)).advance 1

theorem exec_push_of_sram (r : Reg) (s : State) (h : dataPlace s.sp = .sram) :
    exec (.push r) s = .next (s.afterSramPush r) :=
  exec_push_of_pushByte (pushByte_eq_next.2 ⟨_, memWrite_of_sram _ s h, rfl⟩)

/-- SP is one above itself again: the pop reads where the push wrote. -/
theorem State.afterSramPush_sp_next (s : State) (r : Reg) : (s.afterSramPush r).sp + 1#16 = s.sp :=
  BitVec.sub_add_cancel ..

/-- The byte a pop then gives is the byte pushed. -/
theorem State.afterSramPush_poppedByte (s : State) (r : Reg) (h : dataPlace s.sp = .sram) :
    (s.afterSramPush r).poppedByte = s.reg r := by
  have hsp := s.afterSramPush_sp_next r
  rw [State.poppedByte_eq_readByte _ (by rw [hsp]; exact not_mem_sp_of_sram h), hsp, State.readByte_of_sram _ h]
  simp [State.afterSramPush]

/-- Settles O47: the state after the push is known in full, and the pop reads back what it stored. -/
theorem pushThenPopRestores : Obligations.PushThenPopRestores := by
  intro s t r d hlo hhi hpush
  have hplace : dataPlace s.sp = .sram := dataPlace_eq_sram.2 ⟨hlo, hhi⟩
  rw [exec_push_of_sram r s hplace, Host.Outcome.next.injEq] at hpush
  subst hpush
  have hsp := s.afterSramPush_sp_next r
  have hpop : exec (.pop d) (s.afterSramPush r) =
      .next (((s.afterSramPush r).afterPop.setReg d (s.reg r)).advance 1) := by
    rw [exec_pop, execPop_inside d _ (by rw [hsp]; exact hhi), s.afterSramPush_poppedByte r hplace]
  have hregs : ∀ q, (s.afterSramPush r).reg q = s.reg q := fun q => by simp [State.afterSramPush]
  refine ⟨_, hpop, ?reg, hsp, rfl, ?others, ?same, ?pc⟩
  case reg => simp
  case others =>
    intro q hq
    rw [State.advance_reg, State.setReg_reg_of_ne _ _ hq, State.afterPop_reg, hregs]
  case same =>
    rintro rfl q
    rw [State.advance_reg, State.setReg_reg, State.afterPop_reg, hregs]
    split
    · next hq => rw [hq]
    · rfl
  case pc => exact BitVec.add_assoc ..

end Sys2Proof.Machine
end

section
/-! SUPPORT. Where every instruction takes `pc` (spec R26, R27), by the shape of its meaning: obligation O58. -/

namespace Sys2Proof.Machine

/-! ### Instructions that go on -/

/-- A next state that is written out has the `pc` written in it. -/
theorem pc_of_next {u t : State} {p : ProgAddr} (h : (.next u : Result State) = .next t) (hu : u.pc = p) :
    t.pc = p := by
  cases h
  exact hu

/-- The `pc` of what follows an operation that completes is the `pc` of the instruction. -/
theorem pc_of_andThen_next {α : Type} {o : Result α} {f : α → State} {t : State} {p : ProgAddr}
    (h : andThen o (fun a => .next (f a)) = .next t) (hf : ∀ a, o = .next a → (f a).pc = p) : t.pc = p := by
  obtain ⟨a, ha, h⟩ := andThen_eq_next.1 h
  exact pc_of_next h (hf a ha)

/-- A read that completes leaves `pc` alone. -/
theorem memRead_pc {a : DataAddr} {s : State} {r : Byte × State} (h : memRead a s = .next r) : r.2.pc = s.pc := by
  obtain ⟨⟨-, hr⟩ | ⟨-, hr⟩, -⟩ := memRead_eq_next h <;> rw [hr]
  rfl

/-- A write that completes leaves `pc` alone. -/
theorem memWrite_pc {a : DataAddr} {v : Byte} {s t : State} (h : memWrite a v s = .next t) : t.pc = s.pc :=
  (memWrite_frame h).1

theorem loadAt_pc {d : Reg} {a : DataAddr} {n : Nat} {s t : State} (h : loadAt d a n s = .next t) :
    t.pc = s.pc + BitVec.ofNat 14 n :=
  pc_of_andThen_next h fun _ hr => congrArg (· + BitVec.ofNat 14 n) (memRead_pc hr)

theorem storeAt_pc {a : DataAddr} {r : Reg} {n : Nat} {s t : State} (h : storeAt a r n s = .next t) :
    t.pc = s.pc + BitVec.ofNat 14 n :=
  pc_of_andThen_next h fun _ hu => congrArg (· + BitVec.ofNat 14 n) (memWrite_pc hu)

theorem loadUpdate_pc {w : Word} {u : Update} {p : Pointer} {d : Reg} {s t : State}
    (h : loadUpdate w u p d s = .next t) : t.pc = s.pc + 1#14 := by
  unfold loadUpdate at h
  split at h
  · cases h
  · exact pc_of_andThen_next h fun _ hr => congrArg (· + 1#14) (memRead_pc hr)

theorem storeUpdate_pc {w : Word} {u : Update} {p : Pointer} {r : Reg} {s t : State}
    (h : storeUpdate w u p r s = .next t) : t.pc = s.pc + 1#14 := by
  obtain ⟨-, v, hv, rfl⟩ := storeUpdate_eq_next h
  rw [State.advance_pc, State.setPointer_pc, memWrite_pc hv]

theorem execLpmZInc_pc {d : Reg} {s t : State} (h : execLpmZInc d s = .next t) : t.pc = s.pc + 1#14 := by
  unfold execLpmZInc at h
  split at h
  · cases h
  · exact pc_of_andThen_next h fun _ _ => rfl

theorem changeIoBit_pc {a : BitVec 5} {b : BitVec 3} {x : Bool} {s t : State}
    (h : changeIoBit a b x s = .next t) : t.pc = s.pc + 1#14 := by
  obtain ⟨r, hr, h⟩ := andThen_eq_next.1 h
  exact pc_of_andThen_next h fun _ hu => congrArg (· + 1#14) ((memWrite_pc hu).trans (memRead_pc hr))

theorem execPush_pc {r : Reg} {s t : State} (h : execPush r s = .next t) : t.pc = s.pc + 1#14 :=
  pc_of_andThen_next h fun _ hu => congrArg (· + 1#14) (pushByte_frame hu).1

/-! ### Jumps and branches -/

/-- A relative target is `pc + k + 1`, `k` signed, modulo 0x4000 (R27, R115). -/
theorem relativeTarget_toNat {n : Nat} (k : BitVec n) (s : State) :
    ((relativeTarget k s).toNat : Int) = (s.pc.toNat + k.toInt + 1) % 0x4000 := by
  have htarget : (relativeTarget k s).toNat = (s.pc.toNat + 1 + (k.toInt % 0x4000).toNat) % 0x4000 := by
    rw [relativeTarget, BitVec.signExtend, BitVec.toNat_add, BitVec.toNat_add, BitVec.toNat_ofInt]
    exact Nat.mod_add_mod ..
  omega

/-- The instruction after one of one word, modulo 0x4000 (R27). -/
theorem advance_one_toNat (s : State) : ((s.advance 1).pc.toNat : Int) = (s.pc.toNat + 1) % 0x4000 := by
  rw [State.advance_pc, BitVec.toNat_add]
  rfl

/-- A target below 0x4000 is not reduced (R281). -/
theorem toNat_progAddr_of_lt {n : Nat} (h : n < 0x4000) : (BitVec.ofNat 14 n).toNat = n :=
  (BitVec.toNat_ofNat n 14).trans (Nat.mod_eq_of_lt h)

/-- A jump that completes goes to its target, unreduced (R281). -/
theorem jumpTo_pc {n : Nat} {s t : State} (h : jumpTo n s = .next t) : t.pc.toNat = n := by
  obtain ⟨a, ha, h⟩ := andThen_eq_next.1 h
  obtain ⟨hn, rfl⟩ := absoluteTarget_eq_next.1 ha
  cases h
  exact toNat_progAddr_of_lt hn

theorem branchIf_pc {c : Bool} {k : BitVec 7} {s t : State} (h : branchIf c k s = .next t) :
    (t.pc.toNat : Int) = (if c = true then s.pc.toNat + k.toInt + 1 else s.pc.toNat + 1) % 0x4000 := by
  cases h
  split
  · exact relativeTarget_toNat k s
  · exact advance_one_toNat s

/-! ### Calls and returns -/

/-- Moving `pc` changes nothing that `ReturnPushed` speaks of. -/
theorem ReturnPushed.withPc {s t : State} {ra : ProgAddr} (h : ReturnPushed s t ra) (a : ProgAddr) :
    ReturnPushed s (t.withPc a) ra :=
  ⟨h.low, h.high, h.sp, h.frame.withPc a, h.events, h.irqInhibit⟩

/-- A call that completes goes to its target, unreduced (R281), the return address pushed. -/
theorem callTo_pc {k n : Nat} {s t : State} (h : callTo k n s = .next t) :
    t.pc.toNat = k ∧ ReturnPushed s t (s.pc + BitVec.ofNat 14 n) := by
  obtain ⟨a, ha, h⟩ := andThen_eq_next.1 h
  obtain ⟨hk, rfl⟩ := absoluteTarget_eq_next.1 ha
  obtain ⟨u, hu, h⟩ := andThen_eq_next.1 h
  cases h
  exact ⟨toNat_progAddr_of_lt hk, (pushReturn_pushed hu).2.withPc _⟩

theorem execRcall_pc {k : BitVec 12} {s t : State} (h : execRcall k s = .next t) :
    (t.pc.toNat : Int) = (s.pc.toNat + k.toInt + 1) % 0x4000 ∧ ReturnPushed s t (s.pc + 1#14) := by
  obtain ⟨u, hu, h⟩ := andThen_eq_next.1 h
  cases h
  exact ⟨relativeTarget_toNat k s, (pushReturn_pushed hu).2.withPc _⟩

/-- A pop that completes gives the byte and the state that Safety names. -/
theorem popByte_popped {s : State} {r : Byte × State} (h : popByte s = .next r) : r = (s.poppedByte, s.afterPop) := by
  by_cases hin : (s.sp + 1#16).toNat ≤ 0x08FF
  · rw [popByte_inside s hin] at h
    cases h
    rfl
  · rw [popByte_outside s (Nat.lt_of_not_le hin)] at h
    cases h

/-- A return that completes goes to the word popped (R287). -/
theorem popReturn_pc {s t : State} (h : popReturn s = .next t) : t.pc.toNat = s.poppedWord.toNat := by
  obtain ⟨hi, s1, lo, s2, h1, h2, hlt, rfl⟩ := popReturn_eq_next h
  cases popByte_popped h1
  cases popByte_popped h2
  exact toNat_progAddr_of_lt hlt

theorem interruptReturn_pc {s t : State} (h : interruptReturn s = .next t) : t.pc.toNat = s.poppedWord.toNat := by
  obtain ⟨u, hu, rfl⟩ := interruptReturn_eq_next.1 h
  rw [State.writeSreg_pc, popReturn_pc hu]

/-! ### Skips -/

/-- Where a skip on condition `c` leaves `pc` (R103): past the next instruction, whose first word gives its length, or at
it. -/
def PcSkipsOn (c : Prop) (s t : State) : Prop :=
  (c → ∃ w, programWord (s.pc + 1#14) s = .next w ∧ t.pc = s.pc + 1#14 + BitVec.ofNat 14 (ilen w)) ∧
  (¬ c → t.pc = s.pc + 1#14)

theorem skipIf_pc {b : Bool} {c : Prop} {s t : State} (h : skipIf b s = .next t) (hc : c ↔ b = true) :
    PcSkipsOn c s t := by
  cases b
  case false => exact ⟨fun hb => absurd (hc.1 hb) Bool.false_ne_true, fun _ => pc_of_next h rfl⟩
  case true =>
    obtain ⟨w, hw, rfl⟩ := skipNext_eq_next.1 h
    refine ⟨fun _ => ⟨w, hw, ?_⟩, fun hb => absurd (hc.2 rfl) hb⟩
    rw [State.advance_pc, BitVec.ofNat_add, BitVec.add_assoc]

theorem ioAddr_lowIo (a : BitVec 5) : ioAddr (lowIo a) = 0x0020#16 + a.setWidth 16 := by
  rw [ioAddr, lowIo, BitVec.setWidth_setWidth (by decide)]

/-- The I/O registers that `cbi sbic sbi sbis` can name are all devices: SPL, SPH and SREG lie above them (R40, R116). -/
theorem dataPlace_lowIo (a : BitVec 5) : dataPlace (ioAddr (lowIo a)) = .device := by
  revert a
  decide

theorem ioRead_lowIo (a : BitVec 5) (s : State) : ioRead (lowIo a) s =
    .next (Config.deviceRead s.events (0x0020#16 + a.setWidth 16), s.record (.read (0x0020#16 + a.setWidth 16))) := by
  rw [← ioAddr_lowIo]
  simp only [ioRead, memRead, dataPlace_lowIo]

/-- Where a skip on a bit of an I/O register leaves `pc`: the read of the device moves neither `pc` nor program memory. -/
theorem skipOnIoBit_pc {a : BitVec 5} {n : BitVec 3} {x : Bool} {s t : State} (h : skipOnIoBit a n x s = .next t) :
    PcSkipsOn ((Config.deviceRead s.events (0x0020#16 + a.setWidth 16)).getLsbD n.toNat = x) s t := by
  rw [skipOnIoBit, ioRead_lowIo, andThen_next] at h
  exact skipIf_pc (s := s.record _) h beq_iff_eq.symm

/-! ### The table -/

/-- Settles O58: the instructions grouped by the shape of their meaning, each group by the lemma on its shape. `in` and
`out` are a load and a store at the register's data address (R200), `pop` is a load at the SP already moved (R264). -/
theorem everyInstructionAdvancesPcAsTabled : Obligations.EveryInstructionAdvancesPcAsTabled := by
  intro i s t h skips ioBit
  cases i with
  | nop | sleep | wdr | movw | mov | ldi | swap | bld | bst | bset | bclr
  | add | adc | sub | sbc | subi | sbci | cp | cpc | cpi | and | andi | or | ori | eor
  | com | neg | inc | dec | asr | lsr | ror | adiw | sbiw
  | mul | muls | mulsu | fmul | fmuls | fmulsu => exact pc_of_next h rfl
  | lds | lddZ | lddY | ldX | inp => exact loadAt_pc h
  | pop d => exact loadAt_pc (s := s.withSp (s.sp + 1#16)) h
  | sts | stdZ | stdY | stX | out => exact storeAt_pc h
  | ldZInc | ldZDec | ldYInc | ldYDec | ldXInc | ldXDec => exact loadUpdate_pc h
  | stZInc | stZDec | stYInc | stYDec | stXInc | stXDec => exact storeUpdate_pc h
  | lpm | lpmZ => exact pc_of_andThen_next h fun _ _ => rfl
  | lpmZInc => exact execLpmZInc_pc h
  | cbi | sbi => exact changeIoBit_pc h
  | push => exact execPush_pc h
  | jmp | ijmp => exact jumpTo_pc h
  | call | icall => exact callTo_pc h
  | rcall => exact execRcall_pc h
  | rjmp k =>
    cases h
    exact relativeTarget_toNat k s
  | ret => exact popReturn_pc h
  | reti => exact interruptReturn_pc h
  | brbs => exact branchIf_pc h
  | brbc b k => simpa only [Bool.not_eq_true'] using branchIf_pc (c := !s.sreg.getLsbD b.toNat) h
  | cpse => exact skipIf_pc h beq_iff_eq.symm
  | sbrc => exact skipIf_pc h (Bool.not_eq_true' _).symm.to_iff
  | sbrs => exact skipIf_pc h Iff.rfl
  | sbic | sbis => exact skipOnIoBit_pc h
  | des | eijmp | eicall | brk => cases h

end Sys2Proof.Machine
end

section
/-! SUPPORT. The loads and stores with pointer update (spec R80, R245 to R248, R250 to R255, R257, R258): obligations
O42 and O44. -/

namespace Sys2Proof.Machine

/-! ### The two updates of a pointer -/

/-- What an update adds to the pointer to make the address accessed (R80, R259). -/
def Update.offset : Update → Word
  | .postIncrement => 0#16
  | .preDecrement => 0xFFFF#16

/-- What an update adds to the pointer in the end (R80, R259). -/
def Update.step : Update → Word
  | .postIncrement => 1#16
  | .preDecrement => 0xFFFF#16

theorem updateAddr_eq_add_offset (u : Update) (p : Pointer) (s : State) :
    updateAddr u p s = s.pair p.low + u.offset := by
  cases u
  case postIncrement => exact (BitVec.add_zero _).symm
  case preDecrement => exact BitVec.sub_eq_add_neg ..

theorem updatedPointer_eq_add_step (u : Update) (p : Pointer) (s : State) :
    updatedPointer u p s = s.pair p.low + u.step := by
  cases u
  case postIncrement => rfl
  case preDecrement => exact BitVec.sub_eq_add_neg ..

theorem Pointer.owns_eq_false {p : Pointer} {r : Reg} : p.owns r = false ↔ r ≠ p.low ∧ r ≠ p.low + 1#5 := by
  rw [Pointer.owns, Bool.or_eq_false_iff, beq_eq_false_iff_ne, beq_eq_false_iff_ne]

/-! ### Registers as operands -/

/-- Two changes of registers, one after the other. -/
theorem RegFrame.trans {s t u : State} {ws ws' : List Reg} {fl : Byte} (h : RegFrame s t ws fl)
    (h' : RegFrame t u ws' fl) : RegFrame s u (ws' ++ ws) fl where
  regs r hr := by
    rw [List.mem_append, not_or] at hr
    exact (h'.regs r hr.1).trans (h.regs r hr.2)
  flags b hb := (h'.flags b hb).trans (h.flags b hb)
  sp := h'.sp.trans h.sp
  sram a := (h'.sram a).trans (h.sram a)
  program a := (h'.program a).trans (h.program a)
  irqInhibit := h'.irqInhibit.trans h.irqInhibit
  asleep := h'.asleep.trans h.asleep
  irqAnswers := h'.irqAnswers.trans h.irqAnswers
  events := h'.events.trans h.events

/-- Writing a register pair changes nothing else. -/
theorem regFrame_setPair (s : State) (r : Reg) (v : Word) : RegFrame s (s.setPair r v) [r, r + 1#5] 0#8 where
  regs q hq := by
    simp only [List.mem_cons, List.not_mem_nil, or_false, not_or] at hq
    rw [State.setPair_reg, if_neg hq.2, if_neg hq.1]
  flags _ _ := rfl
  sp := rfl
  sram _ := rfl
  program _ := rfl
  irqInhibit := rfl
  asleep := rfl
  irqAnswers := rfl
  events := rfl

/-- Writing a register outside a pair leaves the pair alone. -/
theorem State.setReg_pair_of_ne (s : State) {d r : Reg} (v : Byte) (hl : d ≠ r) (hh : d ≠ r + 1#5) :
    (s.setReg d v).pair r = s.pair r := by
  rw [State.pair, State.setReg_reg_of_ne s v hl.symm, State.setReg_reg_of_ne s v hh.symm, State.pair]

/-! ### Registers as bytes of the data space -/

/-- A data address leads to a register when it is the register's own address (R23, R70). -/
theorem dataPlace_eq_reg {a : DataAddr} {r : Reg} : dataPlace a = .reg r ↔ a = regAddr r := by
  have hplace : dataPlace (regAddr r) = .reg r := by
    revert r
    decide
  constructor
  · intro h
    exact dataPlace_inj (h.trans hplace.symm) (by simp [h]) (by simp [h]) (by simp [h])
  · rintro rfl
    exact hplace

/-- Writing a register changes the byte at its own address alone. -/
theorem State.setReg_dataByte_of_ne (s : State) {r : Reg} {a : DataAddr} (v : Byte) (h : a ≠ regAddr r) :
    (s.setReg r v).dataByte a = s.dataByte a := by
  unfold State.dataByte
  split
  next q hq =>
    have hne : q ≠ r := by
      rintro rfl
      exact h (dataPlace_eq_reg.1 hq)
    rw [State.setReg_reg_of_ne s v hne]
  all_goals rfl

/-- Writing a register pair changes the bytes at its two addresses alone. -/
theorem State.setPair_dataByte_of_not_mem (s : State) {r : Reg} {a : DataAddr} (v : Word)
    (h : a ∉ [regAddr r, regAddr (r + 1#5)]) : (s.setPair r v).dataByte a = s.dataByte a := by
  simp only [List.mem_cons, List.not_mem_nil, or_false, not_or] at h
  rw [State.setPair, State.setReg_dataByte_of_ne _ _ h.2, State.setReg_dataByte_of_ne _ _ h.1]

/-- A byte stored, and a register pair written after it: the pair's bytes may have changed too. -/
theorem ByteStored.setPair {s t : State} {a : DataAddr} {v : Byte} (h : ByteStored s t a v []) (r : Reg) (w : Word) :
    ByteStored s (t.setPair r w) a v [regAddr r, regAddr (r + 1#5)] where
  stored hdev hpair := (t.setPair_dataByte_of_not_mem w hpair).trans (h.stored hdev List.not_mem_nil)
  frame := {
    bytes b hb := by
      rw [List.mem_cons, not_or] at hb
      exact (t.setPair_dataByte_of_not_mem w hb.2).trans (h.frame.bytes b (by simpa using hb.1))
    program := h.frame.program
    asleep := h.frame.asleep
    irqAnswers := h.frame.irqAnswers }
  events := h.events
  irqInhibit := h.irqInhibit

/-! ### The shapes of the instructions -/

/-- All that a load with pointer update inside the data space does. -/
theorem loadUpdate_completes {w : Word} {u : Update} {p : Pointer} {d : Reg} {s : State} (hl : d ≠ p.low)
    (hh : d ≠ p.low + 1#5) (h : (s.pair p.low + u.offset).toNat ≤ 0x08FF) :
    Completes (loadUpdate w u p d s) fun t =>
      t.reg d = s.readByte (s.pair p.low + u.offset) ∧ t.pair p.low = s.pair p.low + u.step ∧ t.pc = s.pc + 1#14 ∧
      RegFrame (s.afterRead (s.pair p.low + u.offset)) t [d, p.low, p.low + 1#5] 0#8 := by
  rw [← updateAddr_eq_add_offset] at h ⊢
  rw [← updatedPointer_eq_add_step]
  refine ⟨_, loadUpdate_inside w u p d s (Pointer.owns_eq_false.2 ⟨hl, hh⟩) h, ?reg, ?pointer, rfl, ?frame⟩
  case reg => rw [State.advance_reg, State.setReg_reg_self]
  case pointer =>
    rw [State.advance_pair, State.setReg_pair_of_ne _ _ hl hh]
    exact State.setPointer_pointer_self ..
  case frame => exact (regFrame_setPair _ p.low _).trans (regFrame_setReg_advance _ d _ 1)

/-- All that a store with pointer update inside the data space does: the pointer is written last, and from its value
before the store (log entry 22). -/
theorem storeUpdate_completes {w : Word} {u : Update} {p : Pointer} {r : Reg} {s : State} (hl : r ≠ p.low)
    (hh : r ≠ p.low + 1#5) (h : (s.pair p.low + u.offset).toNat ≤ 0x08FF) :
    Completes (storeUpdate w u p r s) fun t =>
      t.pair p.low = s.pair p.low + u.step ∧ t.pc = s.pc + 1#14 ∧
      ByteStored s t (s.pair p.low + u.offset) (s.reg r) [regAddr p.low, regAddr (p.low + 1#5)] := by
  rw [← updateAddr_eq_add_offset] at h ⊢
  rw [← updatedPointer_eq_add_step]
  obtain ⟨t, ht, hstored, hpc, -⟩ := memWrite_inside s (s.reg r) h
  have hrun : storeUpdate w u p r s = .next ((t.setPointer p (updatedPointer u p s)).advance 1) := by
    rw [storeUpdate, Pointer.owns_eq_false.2 ⟨hl, hh⟩, if_neg Bool.false_ne_true, ht, andThen_next]
  refine ⟨_, hrun, ?pointer, ?pc, (hstored.setPair p.low _).advance 1⟩
  case pointer => exact State.setPointer_pointer_self ..
  case pc => rw [State.advance_pc, State.setPointer_pc, hpc]

/-! ### The twelve instructions -/

/-- Settles O42: each row of the table is a load with one of the two updates of one of the three pointers. -/
theorem loadsWithUpdateMoveThePointer : Obligations.LoadsWithUpdateMoveThePointer := by
  intro s d i low offset step hrow hl hh h
  simp only [List.mem_cons, List.not_mem_nil, or_false, Prod.mk.injEq] at hrow
  obtain ⟨rfl, rfl, rfl, rfl⟩ | ⟨rfl, rfl, rfl, rfl⟩ | ⟨rfl, rfl, rfl, rfl⟩ | ⟨rfl, rfl, rfl, rfl⟩ |
    ⟨rfl, rfl, rfl, rfl⟩ | ⟨rfl, rfl, rfl, rfl⟩ := hrow
  · exact loadUpdate_completes (u := .postIncrement) (p := .x) hl hh h
  · exact loadUpdate_completes (u := .preDecrement) (p := .x) hl hh h
  · exact loadUpdate_completes (u := .postIncrement) (p := .y) hl hh h
  · exact loadUpdate_completes (u := .preDecrement) (p := .y) hl hh h
  · exact loadUpdate_completes (u := .postIncrement) (p := .z) hl hh h
  · exact loadUpdate_completes (u := .preDecrement) (p := .z) hl hh h

/-- Settles O44: each row of the table is a store with one of the two updates of one of the three pointers. -/
theorem storesWithUpdateMoveThePointer : Obligations.StoresWithUpdateMoveThePointer := by
  intro s r i low offset step hrow hl hh h
  simp only [List.mem_cons, List.not_mem_nil, or_false, Prod.mk.injEq] at hrow
  obtain ⟨rfl, rfl, rfl, rfl⟩ | ⟨rfl, rfl, rfl, rfl⟩ | ⟨rfl, rfl, rfl, rfl⟩ | ⟨rfl, rfl, rfl, rfl⟩ |
    ⟨rfl, rfl, rfl, rfl⟩ | ⟨rfl, rfl, rfl, rfl⟩ := hrow
  · exact storeUpdate_completes (u := .postIncrement) (p := .x) hl hh h
  · exact storeUpdate_completes (u := .preDecrement) (p := .x) hl hh h
  · exact storeUpdate_completes (u := .postIncrement) (p := .y) hl hh h
  · exact storeUpdate_completes (u := .preDecrement) (p := .y) hl hh h
  · exact storeUpdate_completes (u := .postIncrement) (p := .z) hl hh h
  · exact storeUpdate_completes (u := .preDecrement) (p := .z) hl hh h

end Sys2Proof.Machine
end

section
/-! SUPPORT. Words in slices, and each format of spec 30_encoding.md as a pair of inverses: its encoder draws the word
that its fields read (R104 to R134). -/

namespace Sys2Proof

/-! ### Words in slices -/

theorem append_eq_iff {m n : Nat} {x : BitVec m} {y : BitVec n} {w : BitVec (m + n)} :
    x ++ y = w ↔ x = w.extractLsb' n m ∧ y = w.extractLsb' 0 n := by
  constructor
  · rintro rfl
    exact ⟨BitVec.extractLsb'_append_eq_left.symm, BitVec.extractLsb'_append_eq_right.symm⟩
  · rintro ⟨rfl, rfl⟩
    exact BitVec.extractLsb'_append_extractLsb'

/-- A word under a mask, slice by slice. -/
theorem append_eq_and_append_iff {m n : Nat} {w : BitVec (m + n)} {x a : BitVec m} {y b : BitVec n} :
    x ++ y = w &&& (a ++ b) ↔ x = w.extractLsb' n m &&& a ∧ y = w.extractLsb' 0 n &&& b := by
  rw [append_eq_iff, BitVec.extractLsb'_and, BitVec.extractLsb'_and, BitVec.extractLsb'_append_eq_left,
    BitVec.extractLsb'_append_eq_right]

theorem extractLsb'_extractLsb' {n : Nat} (w : BitVec n) {s l s' l' : Nat} (h : s' + l' ≤ l) :
    (w.extractLsb' s l).extractLsb' s' l' = w.extractLsb' (s + s') l' := by
  ext k hk
  have hin : s' + k < l := by omega
  simp [BitVec.getElem_extractLsb', Nat.add_assoc, hin]

/-! ### The registers a short field can name (R22, R110), by their fixed bits -/

theorem Reg.isUpper_iff (d : Reg) : Reg.isUpper d = true ↔ 1#1 = d.extractLsb' 4 1 := by
  revert d
  decide

theorem Reg.isMulSmall_iff (d : Reg) : Reg.isMulSmall d = true ↔ 0b10#2 = d.extractLsb' 3 2 := by
  revert d
  decide

theorem Reg.isEven_iff (d : Reg) : Reg.isEven d = true ↔ 0#1 = d.extractLsb' 0 1 := by
  revert d
  decide

theorem Reg.isWordPair_iff (d : Reg) :
    Reg.isWordPair d = true ↔ 0b11#2 = d.extractLsb' 3 2 ∧ 0#1 = d.extractLsb' 0 1 := by
  revert d
  decide

/-! ### The formats: a word has the fixed bits of a row and the given fields exactly when they draw it

Each proof cuts both sides into the slices of the format and compares them slice by slice. -/

variable {v w : Word}

theorem encodeRR_reads {op : BitVec 6} {d r : Reg} (hv : v = op ++ 0#10) :
    v = w &&& 0xFC00#16 ∧ fieldD w = d ∧ fieldR w = r ↔ encodeRR op d r = w := by
  have hm : 0xFC00#16 = BitVec.allOnes 6 ++ 0#10 := rfl
  rw [hv, hm, append_eq_and_append_iff, fieldD, fieldR, encodeRR]
  iterate 4 rw [append_eq_iff]
  simp only [extractLsb'_extractLsb', Nat.reduceAdd, Nat.reduceLeDiff, BitVec.and_allOnes, BitVec.and_zero, true_and,
    eq_comm, and_assoc, and_comm, and_left_comm]

theorem encodeR4Upper_reads {op : BitVec 8} {d r : Reg} (hv : v = op ++ 0#8) :
    v = w &&& 0xFF00#16 ∧ fieldUpperD w = d ∧ fieldUpperR w = r ↔
      (Reg.isUpper d && Reg.isUpper r) = true ∧ encodeR4Upper op d r = w := by
  have hm : 0xFF00#16 = BitVec.allOnes 8 ++ 0#8 := rfl
  rw [hv, hm, append_eq_and_append_iff, fieldUpperD, fieldUpperR, encodeR4Upper, Bool.and_eq_true, Reg.isUpper_iff,
    Reg.isUpper_iff]
  iterate 4 rw [append_eq_iff]
  simp only [extractLsb'_extractLsb', Nat.reduceAdd, Nat.reduceLeDiff, BitVec.and_allOnes, BitVec.and_zero, true_and,
    eq_comm, and_assoc, and_comm, and_left_comm]

theorem encodeR4Pair_reads {op : BitVec 8} {d r : Reg} (hv : v = op ++ 0#8) :
    v = w &&& 0xFF00#16 ∧ fieldPairD w = d ∧ fieldPairR w = r ↔
      (Reg.isEven d && Reg.isEven r) = true ∧ encodeR4Pair op d r = w := by
  have hm : 0xFF00#16 = BitVec.allOnes 8 ++ 0#8 := rfl
  rw [hv, hm, append_eq_and_append_iff, fieldPairD, fieldPairR, encodeR4Pair, Bool.and_eq_true, Reg.isEven_iff,
    Reg.isEven_iff]
  iterate 4 rw [append_eq_iff]
  simp only [extractLsb'_extractLsb', Nat.reduceAdd, Nat.reduceLeDiff, BitVec.and_allOnes, BitVec.and_zero, true_and,
    eq_comm, and_assoc, and_comm, and_left_comm]

theorem encodeR3_reads {n1 n0 : BitVec 1} {d r : Reg} (hv : v = 0b00000011#8 ++ n1 ++ 0#3 ++ n0 ++ 0#3) :
    v = w &&& 0xFF88#16 ∧ fieldSmallD w = d ∧ fieldSmallR w = r ↔
      (Reg.isMulSmall d && Reg.isMulSmall r) = true ∧ encodeR3 n1 n0 d r = w := by
  have hm : 0xFF88#16 = BitVec.allOnes 8 ++ BitVec.allOnes 1 ++ 0#3 ++ BitVec.allOnes 1 ++ 0#3 := rfl
  rw [hv, hm, fieldSmallD, fieldSmallR, encodeR3, Bool.and_eq_true, Reg.isMulSmall_iff, Reg.isMulSmall_iff]
  iterate 4 rw [append_eq_and_append_iff]
  iterate 6 rw [append_eq_iff]
  simp only [extractLsb'_extractLsb', Nat.reduceAdd, Nat.reduceLeDiff, BitVec.and_allOnes, BitVec.and_zero, true_and,
    eq_comm, and_assoc, and_comm, and_left_comm]

theorem encodeI8_reads {op : BitVec 4} {d : Reg} {k : BitVec 8} (hv : v = op ++ 0#12) :
    v = w &&& 0xF000#16 ∧ fieldUpperD w = d ∧ fieldK8 w = k ↔ Reg.isUpper d = true ∧ encodeI8 op d k = w := by
  have hm : 0xF000#16 = BitVec.allOnes 4 ++ 0#12 := rfl
  rw [hv, hm, append_eq_and_append_iff, fieldUpperD, fieldK8, encodeI8, Reg.isUpper_iff]
  iterate 5 rw [append_eq_iff]
  simp only [extractLsb'_extractLsb', Nat.reduceAdd, Nat.reduceLeDiff, BitVec.and_allOnes, BitVec.and_zero, true_and,
    eq_comm, and_assoc, and_comm, and_left_comm]

theorem encodeI6_reads {op : BitVec 8} {d : Reg} {k : BitVec 6} (hv : v = op ++ 0#8) :
    v = w &&& 0xFF00#16 ∧ fieldWordD w = d ∧ fieldK6 w = k ↔ Reg.isWordPair d = true ∧ encodeI6 op d k = w := by
  have hm : 0xFF00#16 = BitVec.allOnes 8 ++ 0#8 := rfl
  rw [hv, hm, append_eq_and_append_iff, fieldWordD, fieldK6, encodeI6, Reg.isWordPair_iff]
  iterate 6 rw [append_eq_iff]
  simp only [extractLsb'_extractLsb', Nat.reduceAdd, Nat.reduceLeDiff, BitVec.and_allOnes, BitVec.and_zero, true_and,
    eq_comm, and_assoc, and_comm, and_left_comm]

theorem encodeSR_reads {op : BitVec 7} {d : Reg} {n : BitVec 4} (hv : v = op ++ 0#5 ++ n) :
    v = w &&& 0xFE0F#16 ∧ fieldD w = d ↔ encodeSR op d n = w := by
  have hm : 0xFE0F#16 = BitVec.allOnes 7 ++ 0#5 ++ BitVec.allOnes 4 := rfl
  rw [hv, hm, append_eq_and_append_iff, append_eq_and_append_iff, fieldD, encodeSR, append_eq_iff, append_eq_iff]
  simp only [extractLsb'_extractLsb', Nat.reduceAdd, Nat.reduceLeDiff, BitVec.and_allOnes, BitVec.and_zero, true_and,
    eq_comm, and_comm, and_left_comm]

theorem encodeDQ_reads {store y : BitVec 1} {d : Reg} {q : BitVec 6}
    (hv : v = 0b10#2 ++ 0#1 ++ 0#1 ++ 0#2 ++ store ++ 0#5 ++ y ++ 0#3) :
    v = w &&& 0xD208#16 ∧ fieldD w = d ∧ fieldQ w = q ↔ encodeDQ store y d q = w := by
  have hm : 0xD208#16 = BitVec.allOnes 2 ++ 0#1 ++ BitVec.allOnes 1 ++ 0#2 ++ BitVec.allOnes 1 ++ 0#5 ++
    BitVec.allOnes 1 ++ 0#3 := rfl
  rw [hv, hm, fieldD, fieldQ, encodeDQ]
  iterate 7 rw [append_eq_and_append_iff]
  iterate 9 rw [append_eq_iff]
  simp only [extractLsb'_extractLsb', Nat.reduceAdd, Nat.reduceLeDiff, BitVec.and_allOnes, BitVec.and_zero, true_and,
    eq_comm, and_assoc, and_comm, and_left_comm]

theorem encodeIO_reads {isOut : BitVec 1} {d : Reg} {a : BitVec 6} (hv : v = 0b1011#4 ++ isOut ++ 0#11) :
    v = w &&& 0xF800#16 ∧ fieldD w = d ∧ fieldA6 w = a ↔ encodeIO isOut d a = w := by
  have hm : 0xF800#16 = BitVec.allOnes 4 ++ BitVec.allOnes 1 ++ 0#11 := rfl
  rw [hv, hm, append_eq_and_append_iff, append_eq_and_append_iff, fieldD, fieldA6, encodeIO]
  iterate 5 rw [append_eq_iff]
  simp only [extractLsb'_extractLsb', Nat.reduceAdd, Nat.reduceLeDiff, BitVec.and_allOnes, BitVec.and_zero, true_and,
    eq_comm, and_assoc, and_comm, and_left_comm]

theorem encodeIOB_reads {n : BitVec 2} {a : BitVec 5} {b : BitVec 3} (hv : v = 0b100110#6 ++ n ++ 0#8) :
    v = w &&& 0xFF00#16 ∧ fieldA5 w = a ∧ fieldB w = b ↔ encodeIOB n a b = w := by
  have hm : 0xFF00#16 = BitVec.allOnes 6 ++ BitVec.allOnes 2 ++ 0#8 := rfl
  rw [hv, hm, append_eq_and_append_iff, append_eq_and_append_iff, fieldA5, fieldB, encodeIOB]
  iterate 3 rw [append_eq_iff]
  simp only [extractLsb'_extractLsb', Nat.reduceAdd, Nat.reduceLeDiff, BitVec.and_allOnes, BitVec.and_zero, true_and,
    eq_comm, and_assoc, and_comm]

theorem encodeSF_reads {isClear : BitVec 1} {s : BitVec 3} (hv : v = 0b10010100#8 ++ isClear ++ 0#3 ++ 0b1000#4) :
    v = w &&& 0xFF8F#16 ∧ fieldS w = s ↔ encodeSF isClear s = w := by
  have hm : 0xFF8F#16 = BitVec.allOnes 8 ++ BitVec.allOnes 1 ++ 0#3 ++ BitVec.allOnes 4 := rfl
  rw [hv, hm, fieldS, encodeSF]
  iterate 3 rw [append_eq_and_append_iff]
  iterate 3 rw [append_eq_iff]
  simp only [extractLsb'_extractLsb', Nat.reduceAdd, Nat.reduceLeDiff, BitVec.and_allOnes, BitVec.and_zero, true_and,
    eq_comm, and_comm, and_left_comm]

/-- Format I4, of `des` alone (R126). -/
theorem encodeI4_reads {k : BitVec 4} :
    0x940B#16 = w &&& 0xFF0F#16 ∧ fieldK4 w = k ↔ 0b10010100#8 ++ k ++ 0b1011#4 = w := by
  have hm : 0xFF0F#16 = BitVec.allOnes 8 ++ 0#4 ++ BitVec.allOnes 4 := rfl
  have hv : 0x940B#16 = 0b10010100#8 ++ 0#4 ++ 0b1011#4 := rfl
  rw [hv, hm, append_eq_and_append_iff, append_eq_and_append_iff, fieldK4, append_eq_iff, append_eq_iff]
  simp only [extractLsb'_extractLsb', Nat.reduceAdd, Nat.reduceLeDiff, BitVec.and_allOnes, BitVec.and_zero, true_and,
    eq_comm, and_comm, and_left_comm]

theorem encodeJA_reads {isCall : BitVec 1} {k : BitVec 22} {w2 : Word}
    (hv : v = 0b1001010#7 ++ 0#5 ++ 0b11#2 ++ isCall ++ 0#1) :
    v = w &&& 0xFE0E#16 ∧ fieldK22 w w2 = k ↔ encodeJA isCall k = w ∧ k.extractLsb' 0 16 = w2 := by
  have hm : 0xFE0E#16 = BitVec.allOnes 7 ++ 0#5 ++ BitVec.allOnes 2 ++ BitVec.allOnes 1 ++ 0#1 := rfl
  rw [hv, hm, fieldK22, encodeJA]
  iterate 4 rw [append_eq_and_append_iff]
  iterate 6 rw [append_eq_iff]
  simp only [extractLsb'_extractLsb', Nat.reduceAdd, Nat.reduceLeDiff, BitVec.and_allOnes, BitVec.and_zero, true_and,
    eq_comm, and_assoc, and_comm, and_left_comm]

theorem encodeJR_reads {isCall : BitVec 1} {k : BitVec 12} (hv : v = 0b110#3 ++ isCall ++ 0#12) :
    v = w &&& 0xF000#16 ∧ fieldK12 w = k ↔ encodeJR isCall k = w := by
  have hm : 0xF000#16 = BitVec.allOnes 3 ++ BitVec.allOnes 1 ++ 0#12 := rfl
  rw [hv, hm, append_eq_and_append_iff, append_eq_and_append_iff, fieldK12, encodeJR, append_eq_iff, append_eq_iff]
  simp only [extractLsb'_extractLsb', Nat.reduceAdd, Nat.reduceLeDiff, BitVec.and_allOnes, BitVec.and_zero, true_and,
    eq_comm, and_comm]

theorem encodeBR_reads {isClear : BitVec 1} {s : BitVec 3} {k : BitVec 7} (hv : v = 0b11110#5 ++ isClear ++ 0#10) :
    v = w &&& 0xFC00#16 ∧ fieldB w = s ∧ fieldK7 w = k ↔ encodeBR isClear s k = w := by
  have hm : 0xFC00#16 = BitVec.allOnes 5 ++ BitVec.allOnes 1 ++ 0#10 := rfl
  rw [hv, hm, append_eq_and_append_iff, append_eq_and_append_iff, fieldB, fieldK7, encodeBR]
  iterate 3 rw [append_eq_iff]
  simp only [extractLsb'_extractLsb', Nat.reduceAdd, Nat.reduceLeDiff, BitVec.and_allOnes, BitVec.and_zero, true_and,
    eq_comm, and_assoc, and_comm]

theorem encodeRB_reads {n : BitVec 2} {d : Reg} {b : BitVec 3} (hv : v = 0b11111#5 ++ n ++ 0#5 ++ 0#1 ++ 0#3) :
    v = w &&& 0xFE08#16 ∧ fieldD w = d ∧ fieldB w = b ↔ encodeRB n d b = w := by
  have hm : 0xFE08#16 = BitVec.allOnes 5 ++ BitVec.allOnes 2 ++ 0#5 ++ BitVec.allOnes 1 ++ 0#3 := rfl
  rw [hv, hm, fieldD, fieldB, encodeRB]
  iterate 4 rw [append_eq_and_append_iff]
  iterate 4 rw [append_eq_iff]
  simp only [extractLsb'_extractLsb', Nat.reduceAdd, Nat.reduceLeDiff, BitVec.and_allOnes, BitVec.and_zero, true_and,
    eq_comm, and_assoc, and_comm, and_left_comm]

end Sys2Proof
end

section
/-! SUPPORT. The rows of the opcode table (spec R104, R105, R136): no word fits two of them, and each reads an
instruction exactly from the words that begin with its encoding. -/

namespace Sys2Proof

/-! ### The rows of the opcode table -/

theorem OpRow.accepts_iff {row : OpRow} {w : Word} : row.accepts w = true ↔ w &&& row.mask = row.value :=
  beq_iff_eq

/-- The row reads the words as `i`. -/
def OpRow.Reads (row : OpRow) (w w2 : Word) (i : Instr) : Prop := row.accepts w = true ∧ row.build w w2 = i

/-- The row and the pattern given by a mask and a value fix some bit in opposite ways. -/
def OpRow.clashes (row : OpRow) (mask value : Word) : Bool :=
  (row.value ^^^ value) &&& (row.mask &&& mask) != 0#16

/-- No word fits two patterns that clash. -/
theorem OpRow.not_accepts_of_clashes {row : OpRow} {mask value w : Word} (h : row.clashes mask value = true)
    (hw : w &&& mask = value) : row.accepts w = false := by
  refine Bool.eq_false_iff.2 fun hrow => ?_
  rw [OpRow.accepts_iff] at hrow
  rw [OpRow.clashes, ← hrow, ← hw, bne_iff_ne] at h
  apply h
  ext k hk
  simp only [BitVec.getElem_and, BitVec.getElem_xor, BitVec.getElem_zero]
  cases w[k] <;> cases row.mask[k] <;> cases mask[k] <;> rfl

/-- Any two rows clash (R136). -/
theorem opcodeTable_clashes : opcodeTable.Pairwise fun row row' => row.clashes row'.mask row'.value = true := by
  decide

/-- Of two rows, one before the other in the table, a word that the later one accepts is not accepted by the earlier. -/
theorem not_accepts_of_lt {m n : Nat} {w : Word} (hm : m < opcodeTable.length) (hn : n < opcodeTable.length)
    (hmn : m < n) (h : (opcodeTable[n]).accepts w = true) : (opcodeTable[m]).accepts w = false :=
  OpRow.not_accepts_of_clashes (List.pairwise_iff_getElem.1 opcodeTable_clashes m n hm hn hmn) (OpRow.accepts_iff.1 h)

/-- Two rows that accept one word are the same row. -/
theorem eq_of_accepts {row row' : OpRow} {w : Word} (hr : row ∈ opcodeTable) (hr' : row' ∈ opcodeTable)
    (h : row.accepts w = true) (h' : row'.accepts w = true) : row = row' := by
  obtain ⟨m, hm, rfl⟩ := List.getElem_of_mem hr
  obtain ⟨n, hn, rfl⟩ := List.getElem_of_mem hr'
  obtain hlt | rfl | hgt := Nat.lt_trichotomy m n
  · exact absurd h (Bool.eq_false_iff.1 (not_accepts_of_lt hm hn hlt h'))
  · rfl
  · exact absurd h' (Bool.eq_false_iff.1 (not_accepts_of_lt hn hm hgt h))

theorem accepts_of_findRow {row : OpRow} {w : Word} (h : findRow w = some row) :
    row ∈ opcodeTable ∧ row.accepts w = true :=
  ⟨List.mem_of_find?_eq_some h, List.find?_some (p := fun r : OpRow => r.accepts w) h⟩

theorem findRow_eq_some_iff {row : OpRow} {w : Word} :
    findRow w = some row ↔ row ∈ opcodeTable ∧ row.accepts w = true := by
  refine ⟨accepts_of_findRow, fun ⟨hr, h⟩ => ?_⟩
  cases hfind : findRow w with
  | none => exact absurd h (List.find?_eq_none.1 hfind row hr)
  | some row' =>
    obtain ⟨hr', h'⟩ := accepts_of_findRow hfind
    rw [eq_of_accepts hr hr' h h']

/-- A word decodes to what a row of the table that accepts it builds. -/
theorem decodeWords_eq_ok_iff_row {w w2 : Word} {i : Instr} :
    decodeWords w w2 = .ok i ↔ ∃ row ∈ opcodeTable, row.Reads w w2 i := by
  simp only [OpRow.Reads, ← and_assoc, ← findRow_eq_some_iff, decodeWords]
  cases findRow w <;> simp

/-- A word that clashes with every row is reserved (R130). -/
theorem decodeWords_of_clashes {mask value w : Word} (w2 : Word)
    (h : ∀ row ∈ opcodeTable, row.clashes mask value = true) (hw : w &&& mask = value) :
    decodeWords w w2 = .error (.reserved w) := by
  have hnone : findRow w = none := List.find?_eq_none.2 fun row hr => by
    rw [OpRow.not_accepts_of_clashes (h row hr) hw]
    exact Bool.false_ne_true
  rw [decodeWords, hnone]

/-! ### The row of an instruction

The constructors of `Instr` stand in the table's order, so the number of a constructor is the number of its row. -/

theorem ctorIdx_lt_length (i : Instr) : i.ctorIdx < opcodeTable.length := by
  cases i <;> exact Nat.le_of_ble_eq_true rfl

/-- The row of the opcode table that builds instructions like `i`. -/
def Instr.row (i : Instr) : OpRow := opcodeTable[i.ctorIdx]'(ctorIdx_lt_length i)

theorem Instr.row_mem (i : Instr) : i.row ∈ opcodeTable := List.getElem_mem _

theorem ctorIdx_of_rows (w w2 : Word) :
    opcodeTable.map (fun row => (row.build w w2).ctorIdx) = List.range' 0 88 := rfl

theorem row_of_build {row : OpRow} (h : row ∈ opcodeTable) (w w2 : Word) : (row.build w w2).row = row := by
  obtain ⟨n, hn, rfl⟩ := List.getElem_of_mem h
  have hctor : ((opcodeTable[n]).build w w2).ctorIdx = n := by
    simpa [hn] using List.getElem_of_eq (ctorIdx_of_rows w w2) (i := n) (by rwa [List.length_map])
  simp only [Instr.row, hctor]

theorem decodeWords_eq_ok_iff_reads {w w2 : Word} {i : Instr} :
    decodeWords w w2 = .ok i ↔ i.row.Reads w w2 i := by
  rw [decodeWords_eq_ok_iff_row]
  constructor
  · rintro ⟨row, hr, hacc, rfl⟩
    rw [row_of_build hr]
    exact ⟨hacc, rfl⟩
  · intro h
    exact ⟨i.row, i.row_mem, h⟩

/-! ### Reading a row back from its encoding, by the number of fields -/

section
variable {α β : Type} {name : String} {mask value w w2 word word2 : Word}

theorem reads_noField {i : Instr} (hwf : i.wf = true) (henc : encode i = [value]) :
    OpRow.Reads ⟨name, 0xFFFF#16, value, fun _ _ => i⟩ w w2 i ↔ i.wf = true ∧ encode i <+: [w, w2] := by
  have hm : w &&& 0xFFFF#16 = w := BitVec.and_allOnes
  simp [OpRow.Reads, OpRow.accepts_iff, henc, hwf, hm, eq_comm (a := w)]

theorem reads_oneField {c : α → Instr} {f : Word → α} {x : α} (henc : encode (c x) = [word])
    (hword : value = w &&& mask ∧ f w = x ↔ (c x).wf = true ∧ word = w) (hc : ∀ a, c a = c x ↔ a = x) :
    OpRow.Reads ⟨name, mask, value, fun w _ => c (f w)⟩ w w2 (c x) ↔ (c x).wf = true ∧ encode (c x) <+: [w, w2] := by
  simp [OpRow.Reads, OpRow.accepts_iff, eq_comm (b := value), henc, hc, hword]

theorem reads_twoFields {c : α → β → Instr} {f : Word → α} {g : Word → β} {x : α} {y : β}
    (henc : encode (c x y) = [word])
    (hword : value = w &&& mask ∧ f w = x ∧ g w = y ↔ (c x y).wf = true ∧ word = w)
    (hc : ∀ a b, c a b = c x y ↔ a = x ∧ b = y) :
    OpRow.Reads ⟨name, mask, value, fun w _ => c (f w) (g w)⟩ w w2 (c x y) ↔
      (c x y).wf = true ∧ encode (c x y) <+: [w, w2] := by
  simp [OpRow.Reads, OpRow.accepts_iff, eq_comm (b := value), henc, hc, hword]

/-- Format DS: the second word is a field of its own (R123). -/
theorem reads_fieldAndWord {c : α → Word → Instr} {f : Word → α} {x : α} {k : Word} (henc : encode (c x k) = [word, k])
    (hword : value = w &&& mask ∧ f w = x ↔ (c x k).wf = true ∧ word = w) (hc : ∀ a b, c a b = c x k ↔ a = x ∧ b = k) :
    OpRow.Reads ⟨name, mask, value, fun w w2 => c (f w) w2⟩ w w2 (c x k) ↔
      (c x k).wf = true ∧ encode (c x k) <+: [w, w2] := by
  simp [OpRow.Reads, OpRow.accepts_iff, eq_comm (b := value), henc, hc, ← and_assoc, hword, eq_comm (a := w2)]

/-- Format JA: the field reaches over both words (R131). -/
theorem reads_wideField {c : α → Instr} {f : Word → Word → α} {x : α} (henc : encode (c x) = [word, word2])
    (hword : value = w &&& mask ∧ f w w2 = x ↔ (c x).wf = true ∧ word = w ∧ word2 = w2) (hc : ∀ a, c a = c x ↔ a = x) :
    OpRow.Reads ⟨name, mask, value, fun w w2 => c (f w w2)⟩ w w2 (c x) ↔
      (c x).wf = true ∧ encode (c x) <+: [w, w2] := by
  simp [OpRow.Reads, OpRow.accepts_iff, eq_comm (b := value), henc, hc, hword]

end

/-- Where every operand is well formed, the words drawn are all there is to say. -/
theorem iff_wf_and {i : Instr} {p q : Prop} (hwf : i.wf = true) (h : p ↔ q) : p ↔ i.wf = true ∧ q :=
  h.trans (and_iff_right hwf).symm

/-- Format by format: a row reads an instruction exactly from the words that begin with its encoding. -/
theorem Instr.row_reads_iff (i : Instr) (w w2 : Word) :
    i.row.Reads w w2 i ↔ i.wf = true ∧ encode i <+: [w, w2] := by
  cases i with
  | nop | ijmp | eijmp | ret | icall | reti | eicall | sleep | brk | wdr | lpm => exact reads_noField rfl rfl
  | movw => exact reads_twoFields rfl (encodeR4Pair_reads rfl) (by simp)
  | muls => exact reads_twoFields rfl (encodeR4Upper_reads rfl) (by simp)
  | mulsu | fmul | fmuls | fmulsu => exact reads_twoFields rfl (encodeR3_reads rfl) (by simp)
  | cpc | sbc | add | cpse | cp | sub | adc | and | eor | or | mov | mul =>
    exact reads_twoFields rfl (iff_wf_and rfl (encodeRR_reads rfl)) (by simp)
  | cpi | sbci | subi | ori | andi | ldi => exact reads_twoFields rfl (encodeI8_reads rfl) (by simp)
  | lddZ | lddY => exact reads_twoFields rfl (iff_wf_and rfl (encodeDQ_reads rfl)) (by simp)
  | stdZ =>
    exact reads_twoFields (c := fun r q => .stdZ q r) rfl (iff_wf_and rfl (encodeDQ_reads rfl)) (by simp [and_comm])
  | stdY =>
    exact reads_twoFields (c := fun r q => .stdY q r) rfl (iff_wf_and rfl (encodeDQ_reads rfl)) (by simp [and_comm])
  | lds => exact reads_fieldAndWord rfl (iff_wf_and rfl (encodeSR_reads rfl)) (by simp)
  | sts =>
    exact reads_fieldAndWord (c := fun r k => .sts k r) rfl (iff_wf_and rfl (encodeSR_reads rfl)) (by simp [and_comm])
  | ldZInc | ldZDec | lpmZ | lpmZInc | ldYInc | ldYDec | ldX | ldXInc | ldXDec | pop
  | stZInc | stZDec | stYInc | stYDec | stX | stXInc | stXDec | push
  | com | neg | swap | inc | asr | lsr | ror | dec =>
    exact reads_oneField rfl (iff_wf_and rfl (encodeSR_reads rfl)) (by simp)
  | bset | bclr => exact reads_oneField rfl (iff_wf_and rfl (encodeSF_reads rfl)) (by simp)
  | des => exact reads_oneField rfl (iff_wf_and rfl encodeI4_reads) (by simp)
  | jmp | call => exact reads_wideField rfl (iff_wf_and rfl (encodeJA_reads rfl)) (by simp)
  | adiw | sbiw => exact reads_twoFields rfl (encodeI6_reads rfl) (by simp)
  | cbi | sbic | sbi | sbis => exact reads_twoFields rfl (iff_wf_and rfl (encodeIOB_reads rfl)) (by simp)
  | inp => exact reads_twoFields rfl (iff_wf_and rfl (encodeIO_reads rfl)) (by simp)
  | out =>
    exact reads_twoFields (c := fun r a => .out a r) rfl (iff_wf_and rfl (encodeIO_reads rfl)) (by simp [and_comm])
  | rjmp | rcall => exact reads_oneField rfl (iff_wf_and rfl (encodeJR_reads rfl)) (by simp)
  | brbs | brbc => exact reads_twoFields rfl (iff_wf_and rfl (encodeBR_reads rfl)) (by simp)
  | bld | bst | sbrc | sbrs => exact reads_twoFields rfl (iff_wf_and rfl (encodeRB_reads rfl)) (by simp)

/-- Two words decode to an instruction exactly when it is well formed and they begin with its encoding. -/
theorem decodeWords_eq_ok_iff {w w2 : Word} {i : Instr} :
    decodeWords w w2 = .ok i ↔ i.wf = true ∧ encode i <+: [w, w2] :=
  decodeWords_eq_ok_iff_reads.trans (i.row_reads_iff w w2)

end Sys2Proof
end

section
/-! SUPPORT. The length of an instruction (spec R100 to R102) and the two round trips between instructions and program
words (spec R104, 30_encoding.md section 3): obligations O3, O4 and O5. -/

namespace Sys2Proof

/-! ### Lengths -/

/-- Whether a row's words fit a pattern is settled by the row's fixed bits alone. -/
def OpRow.settles (row : OpRow) (mask value : Word) : Bool :=
  row.mask &&& mask == mask || row.clashes mask value

/-- A word of such a row fits the pattern exactly when the row's fixed bits do. -/
theorem OpRow.fits_iff_of_settles {row : OpRow} {mask value w : Word} (hs : row.settles mask value = true)
    (h : row.accepts w = true) : w &&& mask = value ↔ row.value &&& mask = value := by
  rw [OpRow.settles, Bool.or_eq_true, beq_iff_eq] at hs
  obtain hin | hclash := hs
  · rw [← OpRow.accepts_iff.1 h, BitVec.and_assoc, hin]
  · have hvalue : row.accepts row.value = true := by
      rw [OpRow.accepts_iff, ← OpRow.accepts_iff.1 h, BitVec.and_assoc, BitVec.and_self]
    constructor <;> intro hfit
    · rw [OpRow.not_accepts_of_clashes hclash hfit] at h
      cases h
    · rw [OpRow.not_accepts_of_clashes hclash hfit] at hvalue
      cases hvalue

theorem opcodeTable_settles_length : ∀ row ∈ opcodeTable,
    row.settles 0xFC0F#16 0x9000#16 = true ∧ row.settles 0xFE0C#16 0x940C#16 = true := by
  decide

theorem ilen_eq_ite (w : Word) :
    ilen w = if w &&& 0xFC0F#16 = 0x9000#16 then 2 else if w &&& 0xFE0C#16 = 0x940C#16 then 2 else 1 := by
  simp only [ilen, isLdsSts, isJmpCall, Bool.or_eq_true, beq_iff_eq]
  by_cases hl : w &&& 0xFC0F#16 = 0x9000#16
  · rw [if_pos hl, if_pos (.inl hl)]
  · simp only [hl, false_or, if_false]

theorem ilen_eq_two_iff {w : Word} :
    ilen w = 2 ↔ w &&& 0xFC0F#16 = 0x9000#16 ∨ w &&& 0xFE0C#16 = 0x940C#16 := by
  simp only [ilen, isLdsSts, isJmpCall, Bool.or_eq_true, beq_iff_eq]
  by_cases hpattern : w &&& 0xFC0F#16 = 0x9000#16 ∨ w &&& 0xFE0C#16 = 0x940C#16
  · exact iff_of_true (if_pos hpattern) hpattern
  · rw [if_neg hpattern]
    exact iff_of_false (by decide) hpattern

theorem ilen_eq_two_or_one (w : Word) : ilen w = 2 ∨ ilen w = 1 := by
  rw [ilen]
  split
  · exact .inl rfl
  · exact .inr rfl

theorem ilen_of_accepts {row : OpRow} {w : Word} (hr : row ∈ opcodeTable) (h : row.accepts w = true) :
    ilen w = ilen row.value := by
  obtain ⟨hldsSts, hjmpCall⟩ := opcodeTable_settles_length row hr
  rw [ilen_eq_ite, ilen_eq_ite]
  simp only [OpRow.fits_iff_of_settles hldsSts h, OpRow.fits_iff_of_settles hjmpCall h]

theorem length_encode_of_rows (w w2 : Word) :
    opcodeTable.map (fun row => (encode (row.build w w2)).length) = opcodeTable.map (fun row => ilen row.value) := rfl

/-- The length that the first word tells is the length of the encoding (R101). -/
theorem length_encode_of_decodeWords {w w2 : Word} {i : Instr} (h : decodeWords w w2 = .ok i) :
    (encode i).length = ilen w := by
  obtain ⟨row, hr, hacc, rfl⟩ := decodeWords_eq_ok_iff_row.1 h
  exact (List.map_inj_left.1 (length_encode_of_rows w w2) row hr).trans (ilen_of_accepts hr hacc).symm

/-! ### From words to instructions and back -/

/-- Settles O4: the words begin with the encoding of what they decode to, and its length is the one the first tells. -/
theorem encodeOfDecodeIsTheWords : Obligations.EncodeOfDecodeIsTheWords := by
  intro w w2 i h
  obtain ⟨hwf, rest, hwords⟩ := decodeWords_eq_ok_iff.1 h
  have htake : [w, w2].take (ilen w) = encode i := by
    rw [← hwords, ← length_encode_of_decodeWords h, List.take_left]
  refine ⟨hwf, ?_⟩
  obtain hlen | hlen := ilen_eq_two_or_one w <;> simp [← htake, hlen]

/-- The one word of an instruction decodes to it, whatever word follows. -/
theorem decodeWords_of_encode_eq_one {w w2 : Word} {i : Instr} (hwf : i.wf = true) (h : encode i = [w]) :
    decodeWords w w2 = .ok i :=
  decodeWords_eq_ok_iff.2 ⟨hwf, by simp [h]⟩

theorem decodeWords_of_encode_eq_two {w w2 : Word} {i : Instr} (hwf : i.wf = true) (h : encode i = [w, w2]) :
    decodeWords w w2 = .ok i :=
  decodeWords_eq_ok_iff.2 ⟨hwf, by simp [h]⟩

theorem encode_eq_one_or_two (i : Instr) : (∃ w, encode i = [w]) ∨ ∃ w w2, encode i = [w, w2] := by
  cases i with
  | lds | sts | jmp | call => exact .inr ⟨_, _, rfl⟩
  | _ => exact .inl ⟨_, rfl⟩

/-- The two bytes that an image holds of a word are read as the word (R60). -/
theorem wordOfBytes_lowByte_highByte (w : Word) : wordOfBytes (lowByte w) (highByte w) = w :=
  BitVec.extractLsb'_append_extractLsb'

/-- Settles O3: the bytes are read back as the words of the encoding, whose number is the one the first word tells. -/
theorem decodeOfEncodeIsTheInstruction : Obligations.DecodeOfEncodeIsTheInstruction := by
  intro i rest hwf
  obtain ⟨w, henc⟩ | ⟨w, w2, henc⟩ := encode_eq_one_or_two i
  · have hdec := decodeWords_of_encode_eq_one (w2 := 0#16) hwf henc
    have hlen : ilen w = 1 := by rw [← length_encode_of_decodeWords hdec, henc, List.length_singleton]
    simp [encodeBytes, henc, decodeBytes, wordOfBytes_lowByte_highByte, hlen, hdec, Except.map]
  · have hdec := decodeWords_of_encode_eq_two hwf henc
    have hlen : ilen w = 2 := by rw [← length_encode_of_decodeWords hdec, henc]; rfl
    simp [encodeBytes, henc, decodeBytes, wordOfBytes_lowByte_highByte, hlen, hdec, Except.map]

/-! ### The four instructions of two words -/

/-- One more fixed bit is either clear or set. -/
theorem and_or_twoPow (w m : Word) (b : Nat) :
    w &&& (m ||| BitVec.twoPow 16 b) = w &&& m ∨ w &&& (m ||| BitVec.twoPow 16 b) = w &&& m ||| BitVec.twoPow 16 b := by
  rw [BitVec.and_or_distrib_left, BitVec.and_twoPow]
  split
  · exact .inr rfl
  · exact .inl BitVec.or_zero

/-- The pattern of `lds` and `sts` (R101) slice by slice. -/
theorem ldsSts_pattern_iff {w : Word} :
    w &&& 0xFC0F#16 = 0x9000#16 ↔ w.extractLsb' 10 6 = 0b100100#6 ∧ w.extractLsb' 0 4 = 0b0000#4 := by
  have hm : 0xFC0F#16 = BitVec.allOnes 6 ++ 0#6 ++ BitVec.allOnes 4 := rfl
  have hv : 0x9000#16 = 0b100100#6 ++ 0#6 ++ 0b0000#4 := rfl
  rw [eq_comm, hv, hm, append_eq_and_append_iff, append_eq_and_append_iff]
  simp only [extractLsb'_extractLsb', Nat.reduceAdd, Nat.reduceLeDiff, BitVec.and_allOnes, BitVec.and_zero, true_and,
    eq_comm, and_comm]

/-- The pattern of `jmp` and `call` (R101) slice by slice. -/
theorem jmpCall_pattern_iff {w : Word} :
    w &&& 0xFE0C#16 = 0x940C#16 ↔ w.extractLsb' 9 7 = 0b1001010#7 ∧ w.extractLsb' 2 2 = 0b11#2 := by
  have hm : 0xFE0C#16 = BitVec.allOnes 7 ++ 0#5 ++ BitVec.allOnes 2 ++ 0#2 := rfl
  have hv : 0x940C#16 = 0b1001010#7 ++ 0#5 ++ 0b11#2 ++ 0#2 := rfl
  rw [eq_comm, hv, hm, append_eq_and_append_iff, append_eq_and_append_iff, append_eq_and_append_iff]
  simp only [extractLsb'_extractLsb', Nat.reduceAdd, Nat.reduceLeDiff, BitVec.and_allOnes, BitVec.and_zero, true_and,
    eq_comm, and_comm]

/-- Bit 9 tells `sts` from `lds` (R123). -/
theorem decodeWords_of_ldsSts {w : Word} (w2 : Word) (h : w &&& 0xFC0F#16 = 0x9000#16) :
    decodeWords w w2 = .ok (.lds (fieldD w) w2) ∨ decodeWords w w2 = .ok (.sts w2 (fieldD w)) := by
  obtain hbit | hbit := and_or_twoPow w 0xFC0F#16 9 <;> rw [h] at hbit
  · exact .inl (decodeWords_eq_ok_iff_reads.2 ⟨OpRow.accepts_iff.2 hbit, rfl⟩)
  · exact .inr (decodeWords_eq_ok_iff_reads.2 ⟨OpRow.accepts_iff.2 hbit, rfl⟩)

/-- Bit 1 tells `call` from `jmp` (R131). -/
theorem decodeWords_of_jmpCall {w : Word} (w2 : Word) (h : w &&& 0xFE0C#16 = 0x940C#16) :
    decodeWords w w2 = .ok (.jmp (fieldK22 w w2)) ∨ decodeWords w w2 = .ok (.call (fieldK22 w w2)) := by
  obtain hbit | hbit := and_or_twoPow w 0xFE0C#16 1 <;> rw [h] at hbit
  · exact .inl (decodeWords_eq_ok_iff_reads.2 ⟨OpRow.accepts_iff.2 hbit, rfl⟩)
  · exact .inr (decodeWords_eq_ok_iff_reads.2 ⟨OpRow.accepts_iff.2 hbit, rfl⟩)

/-- Settles O5: the patterns are the masks slice by slice, and the four rows of two words are theirs. -/
theorem lengthComesFromTheFirstWord : Obligations.LengthComesFromTheFirstWord := by
  intro w
  refine ⟨?patterns, ilen_eq_two_or_one w, ilen_eq_ite w, fun w2 => ⟨?decodes, ?two⟩⟩
  case patterns => rw [ilen_eq_two_iff, ldsSts_pattern_iff, jmpCall_pattern_iff]
  case decodes =>
    intro h
    obtain h | h := ilen_eq_two_iff.1 h
    · obtain hlds | hsts := decodeWords_of_ldsSts w2 h
      · exact .inl ⟨_, hlds⟩
      · exact .inr (.inl ⟨_, hsts⟩)
    · obtain hjmp | hcall := decodeWords_of_jmpCall w2 h
      · exact .inr (.inr (.inl ⟨_, hjmp⟩))
      · exact .inr (.inr (.inr ⟨_, hcall⟩))
  case two =>
    rintro (⟨_, h⟩ | ⟨_, h⟩ | ⟨_, h⟩ | ⟨_, h⟩) <;> exact (length_encode_of_decodeWords h).symm

end Sys2Proof
end

section
/-! SUPPORT. Five formats of spec 30_encoding.md drawn field by field (R107, R109, R111, R121, R123, R124): obligations
O7, O8 and O9. -/

namespace Sys2Proof

/-! ### Registers written as fixed bits and a field -/

theorem Reg.isUpper_append (d : BitVec 4) : Reg.isUpper (1#1 ++ d) = true := by
  revert d
  decide

theorem Reg.isMulSmall_append (d : BitVec 3) : Reg.isMulSmall (0b10#2 ++ d) = true := by
  revert d
  decide

theorem Reg.isEven_append (d : BitVec 4) : Reg.isEven (d ++ 0#1) = true := by
  revert d
  decide

theorem encodeI8_append (op high d low : BitVec 4) : encodeI8 op (1#1 ++ d) (high ++ low) = op ++ high ++ d ++ low := by
  rw [encodeI8, BitVec.extractLsb'_append_eq_left, BitVec.extractLsb'_append_eq_right,
    BitVec.extractLsb'_append_eq_right]

theorem encodeR4Pair_append (op : BitVec 8) (d r : BitVec 4) :
    encodeR4Pair op (d ++ 0#1) (r ++ 0#1) = op ++ d ++ r := by
  rw [encodeR4Pair, BitVec.extractLsb'_append_eq_left, BitVec.extractLsb'_append_eq_left]

theorem encodeR4Upper_append (op : BitVec 8) (d r : BitVec 4) :
    encodeR4Upper op (1#1 ++ d) (1#1 ++ r) = op ++ d ++ r := by
  rw [encodeR4Upper, BitVec.extractLsb'_append_eq_right, BitVec.extractLsb'_append_eq_right]

theorem encodeR3_append (n1 n0 : BitVec 1) (d r : BitVec 3) :
    encodeR3 n1 n0 (0b10#2 ++ d) (0b10#2 ++ r) = 0b00000011#8 ++ n1 ++ d ++ n0 ++ r := by
  rw [encodeR3, BitVec.extractLsb'_append_eq_right, BitVec.extractLsb'_append_eq_right]

/-! ### Formats I8, R4 and R3: what is drawn is read -/

section
variable {i : Instr} {w2 : Word}

theorem decodeWords_I8 {op high d low : BitVec 4} (hwf : i.wf = Reg.isUpper (1#1 ++ d))
    (henc : encode i = [encodeI8 op (1#1 ++ d) (high ++ low)]) :
    decodeWords (op ++ high ++ d ++ low) w2 = .ok i :=
  decodeWords_of_encode_eq_one (hwf.trans (Reg.isUpper_append d)) (by rw [henc, encodeI8_append])

theorem decodeWords_R4Pair {op : BitVec 8} {d r : BitVec 4}
    (hwf : i.wf = (Reg.isEven (d ++ 0#1) && Reg.isEven (r ++ 0#1)))
    (henc : encode i = [encodeR4Pair op (d ++ 0#1) (r ++ 0#1)]) : decodeWords (op ++ d ++ r) w2 = .ok i :=
  decodeWords_of_encode_eq_one (by rw [hwf, Reg.isEven_append, Reg.isEven_append, Bool.and_self])
    (by rw [henc, encodeR4Pair_append])

theorem decodeWords_R4Upper {op : BitVec 8} {d r : BitVec 4}
    (hwf : i.wf = (Reg.isUpper (1#1 ++ d) && Reg.isUpper (1#1 ++ r)))
    (henc : encode i = [encodeR4Upper op (1#1 ++ d) (1#1 ++ r)]) : decodeWords (op ++ d ++ r) w2 = .ok i :=
  decodeWords_of_encode_eq_one (by rw [hwf, Reg.isUpper_append, Reg.isUpper_append, Bool.and_self])
    (by rw [henc, encodeR4Upper_append])

theorem decodeWords_R3 {n1 n0 : BitVec 1} {d r : BitVec 3}
    (hwf : i.wf = (Reg.isMulSmall (0b10#2 ++ d) && Reg.isMulSmall (0b10#2 ++ r)))
    (henc : encode i = [encodeR3 n1 n0 (0b10#2 ++ d) (0b10#2 ++ r)]) :
    decodeWords (0b00000011#8 ++ n1 ++ d ++ n0 ++ r) w2 = .ok i :=
  decodeWords_of_encode_eq_one (by rw [hwf, Reg.isMulSmall_append, Reg.isMulSmall_append, Bool.and_self])
    (by rw [henc, encodeR3_append])

end

/-! ### The reserved half of format RB -/

theorem opcodeTable_clashes_reservedRB : ∀ row ∈ opcodeTable, row.clashes 0xF808#16 0xF808#16 = true := by
  decide

/-- With bit 3 set a word of format RB is reserved (R107, R130). -/
theorem decodeWords_reservedRB (n : BitVec 2) (d : BitVec 5) (b : BitVec 3) (w2 : Word) :
    decodeWords (0b11111#5 ++ n ++ d ++ 1#1 ++ b) w2 = .error (.reserved (0b11111#5 ++ n ++ d ++ 1#1 ++ b)) := by
  have hm : 0xF808#16 = 0b11111#5 ++ 0#2 ++ 0#5 ++ 1#1 ++ 0#3 := rfl
  refine decodeWords_of_clashes w2 opcodeTable_clashes_reservedRB ?_
  rw [hm, BitVec.and_append, BitVec.and_append, BitVec.and_append, BitVec.and_append]
  simp only [BitVec.and_self, BitVec.and_zero]

/-! ### The statements -/

/-- Settles O7: every drawn word is the encoding of the instruction read, but for the reserved half of format RB. -/
theorem bitNumberFormatsAreReadAsDrawn : Obligations.BitNumberFormatsAreReadAsDrawn := by
  intro d a b n w2
  refine ⟨?_, ?_, ?_, ?_, decodeWords_reservedRB n d b w2, ?_, ?_, ?_, ?_, ?_, ?_, ?_, ?_, ?_⟩
  all_goals exact decodeWords_of_encode_eq_one rfl rfl

/-- Settles O8: the two words of format DS and the one of format I8 are the encodings of the instructions read. -/
theorem directAndImmediateFormatsAreReadAsDrawn : Obligations.DirectAndImmediateFormatsAreReadAsDrawn := by
  refine ⟨fun d k => ?ds, fun high d low w2 => ?i8⟩
  case ds => exact ⟨decodeWords_of_encode_eq_two rfl rfl, decodeWords_of_encode_eq_two rfl rfl, rfl, rfl⟩
  case i8 =>
    exact ⟨decodeWords_I8 rfl rfl, decodeWords_I8 rfl rfl, decodeWords_I8 rfl rfl, decodeWords_I8 rfl rfl,
      decodeWords_I8 rfl rfl, decodeWords_I8 rfl rfl⟩

/-- Settles O9: the registers that the short fields name are those the formats can name, and they draw the fields. -/
theorem shortRegisterFormatsAreReadAsDrawn : Obligations.ShortRegisterFormatsAreReadAsDrawn :=
  ⟨fun _ _ _ => ⟨decodeWords_R4Pair rfl rfl, decodeWords_R4Upper rfl rfl⟩,
    fun _ _ _ => ⟨decodeWords_R3 rfl rfl, decodeWords_R3 rfl rfl, decodeWords_R3 rfl rfl, decodeWords_R3 rfl rfl⟩⟩

end Sys2Proof
end

section
/-! SUPPORT. A byte copied into a register, and a byte or flags computed into it: what every instruction of spec file
40_single_register.md leaves, with its frame (R150, R173). -/

namespace Sys2Proof.Machine

/-! ### Flags under a mask -/

/-- The old flags with those that are 1 in the mask taken from `f`: an instruction that writes the flags of the mask
alone computes an `f` with `old.updateAt mask f = f`. -/
def Flags.updateAt (old : Flags) (mask : Byte) (f : Flags) : Flags where
  i := if mask.getLsbD 7 then f.i else old.i
  t := if mask.getLsbD 6 then f.t else old.t
  h := if mask.getLsbD 5 then f.h else old.h
  s := if mask.getLsbD 4 then f.s else old.s
  v := if mask.getLsbD 3 then f.v else old.v
  n := if mask.getLsbD 2 then f.n else old.n
  z := if mask.getLsbD 1 then f.z else old.z
  c := if mask.getLsbD 0 then f.c else old.c

theorem Flags.updateAt_byte_getLsbD_of_not {old f : Flags} {mask : Byte} {b : Nat} (h : mask.getLsbD b = false) :
    (old.updateAt mask f).byte.getLsbD b = old.byte.getLsbD b := by
  rw [Flags.byte_getLsbD, Flags.byte_getLsbD]
  match b with
  | 0 | 1 | 2 | 3 | 4 | 5 | 6 | 7 => exact if_neg (ne_true_of_eq_false h)
  | _ + 8 => rfl

/-! ### Frames -/

/-- Moving `pc` on changes nothing else. -/
theorem regFrame_advance (s : State) (n : Nat) : RegFrame s (s.advance n) [] 0#8 :=
  ⟨fun _ _ => rfl, fun _ _ => rfl, rfl, fun _ => rfl, fun _ => rfl, rfl, rfl, rfl, rfl⟩

/-- Writing flags that are the old ones outside a mask changes nothing else. -/
theorem RegFrame.setFlags {s t : State} {ws : List Reg} (h : RegFrame s t ws 0#8) {f : Flags} {mask : Byte}
    (hf : s.flags.updateAt mask f = f) : RegFrame s (t.setFlags f) ws mask where
  regs := h.regs
  flags b hb := by
    rw [State.setFlags_sreg, ← hf, Flags.updateAt_byte_getLsbD_of_not hb, State.flags, byte_flagsOf]
  sp := h.sp
  sram := h.sram
  program := h.program
  irqInhibit := h.irqInhibit
  asleep := h.asleep
  irqAnswers := h.irqAnswers
  events := h.events

/-! ### The two shapes -/

/-- A copied byte and its frame. -/
theorem copyInto_completes {s : State} {d : Reg} {v : Byte} {P : State → Prop}
    (h : ∀ t, t.reg d = v → t.pc = s.pc + 1#14 → RegFrame s t [d] 0#8 → P t) : Completes (copyInto d v s) P := by
  refine ⟨_, rfl, h _ ?value rfl (regFrame_setReg_advance s d v 1)⟩
  rw [State.advance_reg, State.setReg_reg_self]

/-- A computed byte with its flags, and its frame, when the flags outside `mask` are the old ones. -/
theorem regResult_completes {s : State} {d : Reg} {v : Byte} {f : Flags} {mask : Byte} {P : State → Prop}
    (hf : s.flags.updateAt mask f = f)
    (h : ∀ t, t.reg d = v → t.flags = f → t.pc = s.pc + 1#14 → RegFrame s t [d] mask → P t) :
    Completes (regResult d v f s) P := by
  refine ⟨_, rfl, h _ ?value ?flags rfl ((regFrame_setReg_advance s d v 1).setFlags hf)⟩
  case value => rw [State.advance_reg, State.setFlags_reg, State.setReg_reg_self]
  case flags => rw [State.advance_flags, State.setFlags_flags]

/-! ### Bytes as numbers -/

theorem getLsbD_eq_decide {w : Nat} (v : BitVec w) (b : Nat) : v.getLsbD b = decide (v.toNat / 2 ^ b % 2 = 1) :=
  Nat.testBit_eq_decide_div_mod_eq

theorem toInt_byte (v : Byte) : v.toInt = if v.toNat < 128 then (v.toNat : Int) else v.toNat - 256 := by
  rw [BitVec.toInt_eq_toNat_cond]
  split <;> split <;> omega

/-- Bit 7 of a byte is its sign. -/
theorem getLsbD_seven_eq (v : Byte) : v.getLsbD 7 = decide (v.toInt < 0) :=
  (BitVec.msb_eq_getLsbD_last v).symm.trans BitVec.msb_eq_toInt

/-- Two slices, the upper one counting for what the lower one can hold. -/
theorem toNat_append_eq_add {m n : Nat} (x : BitVec m) (y : BitVec n) : (x ++ y).toNat = 2 ^ n * x.toNat + y.toNat := by
  rw [BitVec.toNat_append, ← Nat.shiftLeft_add_eq_or_of_lt y.isLt, Nat.shiftLeft_eq, Nat.mul_comm]

end Sys2Proof.Machine
end

section
/-! SUPPORT. `com`, `neg`, `inc` and `dec` (spec R151, R152, R154, R158): obligation O30. -/

namespace Sys2Proof.Machine

theorem toNat_com (x : Byte) : (0xFF#8 - x).toNat = 255 - x.toNat := by
  have := x.isLt
  rw [BitVec.toNat_sub, BitVec.toNat_ofNat]
  omega

theorem toNat_neg (x : Byte) : (0x00#8 - x).toNat = (256 - x.toNat) % 256 := by
  rw [BitVec.zero_sub, BitVec.toNat_neg]

theorem toNat_inc (x : Byte) : (x + 1#8).toNat = (x.toNat + 1) % 256 := BitVec.toNat_add ..

theorem toNat_dec (x : Byte) : (x - 1#8).toNat = (x.toNat + 255) % 256 := by
  rw [BitVec.toNat_sub, BitVec.toNat_ofNat, Nat.add_comm]

/-- The increment leaves the signed range exactly when it gives 0x80 (R154). -/
theorem inc_overflows_iff (x : Byte) : x + 1#8 = 0x80#8 ↔ 127 < x.toInt + 1 := by
  have := x.isLt
  rw [BitVec.toNat_eq, toNat_inc, toInt_byte, BitVec.toNat_ofNat]
  omega

/-- The decrement leaves the signed range exactly when it gives 0x7F (R158). -/
theorem dec_overflows_iff (x : Byte) : x - 1#8 = 0x7F#8 ↔ x.toInt - 1 < -128 := by
  have := x.isLt
  rw [BitVec.toNat_eq, toNat_dec, toInt_byte, BitVec.toNat_ofNat]
  omega

/-- 0x80 is the one byte that is its own negative and not zero (R152). -/
theorem neg_eq_min_iff (x : Byte) : 0x00#8 - x = 0x80#8 ↔ x = 0x80#8 := by
  have := x.isLt
  rw [BitVec.toNat_eq, BitVec.toNat_eq, toNat_neg, BitVec.toNat_ofNat]
  omega

/-- The bit equations of R152 are the arithmetic readings of R172 for a subtraction from zero. -/
theorem negFlags_differenceFlags (f : Flags) (x : Byte) :
    DifferenceFlags f (negFlags f x (0x00#8 - x)) 0#8 x false (0x00#8 - x) false where
  h := by
    have hneg := toNat_neg x
    have := x.isLt
    simp only [negFlags, getLsbD_eq_decide, ← Bool.decide_or, BitVec.toNat_ofNat, Bool.toNat_false, decide_eq_decide]
    omega
  v := by
    have := x.isLt
    refine decide_eq_decide.2 ((neg_eq_min_iff x).trans ?_)
    rw [BitVec.toNat_eq, toInt_byte x, BitVec.toInt_zero, BitVec.toNat_ofNat, Bool.toNat_false]
    omega
  n := getLsbD_seven_eq _
  s := rfl
  z := (Bool.and_true _).symm
  c := by
    have := x.isLt
    have hz : (0x00#8 - x != 0#8) = decide (0x00#8 - x ≠ 0#8) := (decide_not ..).symm
    refine hz.trans (decide_eq_decide.2 ?_)
    rw [Ne, BitVec.toNat_eq, toNat_neg, BitVec.toNat_ofNat, Bool.toNat_false]
    omega

/-- Settles O30: each instruction is a register result, and its flag function is read off by the lemmas above. -/
theorem complementsIncAndDecWithTheirFlags : Obligations.ComplementsIncAndDecWithTheirFlags := by
  intro s d
  refine ⟨?com, ?neg, ?inc, ?dec⟩
  case com =>
    refine regResult_completes (mask := 0x1F#8) rfl fun t hreg hflags hpc hframe => ?_
    rw [hreg, hflags]
    exact ⟨toNat_com _, rfl, rfl, rfl, rfl, rfl, hpc, hframe⟩
  case neg =>
    refine regResult_completes (mask := 0x3F#8) rfl fun t hreg hflags hpc hframe => ?_
    rw [hreg, hflags]
    exact ⟨toNat_neg _, rfl, decide_eq_decide.2 (neg_eq_min_iff _), negFlags_differenceFlags _ _, hpc, hframe⟩
  case inc =>
    refine regResult_completes (mask := 0x1E#8) rfl fun t hreg hflags hpc hframe => ?_
    rw [hreg, hflags]
    exact ⟨toNat_inc _, decide_eq_decide.2 (inc_overflows_iff _), rfl, rfl, rfl, hpc, hframe⟩
  case dec =>
    refine regResult_completes (mask := 0x1E#8) rfl fun t hreg hflags hpc hframe => ?_
    rw [hreg, hflags]
    exact ⟨toNat_dec _, decide_eq_decide.2 (dec_overflows_iff _), rfl, rfl, rfl, hpc, hframe⟩

end Sys2Proof.Machine
end

section
/-! SUPPORT. `asr`, `lsr` and `ror` (spec R155 to R157): obligations O31 and O32. -/

namespace Sys2Proof.Machine

/-! ### The halves -/

/-- A bit shifted in at the top, and the lowest one out. -/
theorem toNat_halved (b : BitVec 1) (x : Byte) :
    (b ++ x.extractLsb' 1 7 : Byte).toNat = 128 * b.toNat + x.toNat / 2 := by
  have := x.isLt
  rw [toNat_append_eq_add, BitVec.extractLsb'_toNat, Nat.shiftRight_eq_div_pow]
  omega

/-- `asr` keeps the sign, and halves the signed number, rounding down (R155). -/
theorem toInt_asr (x : Byte) : (x.extractLsb' 7 1 ++ x.extractLsb' 1 7 : Byte).toInt = x.toInt / 2 := by
  have := x.isLt
  have hsign : (x.extractLsb' 7 1).toNat = x.toNat / 128 % 2 := by
    rw [BitVec.extractLsb'_toNat, Nat.shiftRight_eq_div_pow]
  have hnat := toNat_halved (x.extractLsb' 7 1) x
  rw [toInt_byte, toInt_byte x]
  omega

theorem toNat_lsr (x : Byte) : (0#1 ++ x.extractLsb' 1 7 : Byte).toNat = x.toNat / 2 := by
  rw [toNat_halved, BitVec.toNat_ofNat]
  omega

/-- `ror` halves the nine-bit number that C and the operand make (R157). -/
theorem toNat_ror (c : Bool) (x : Byte) :
    (BitVec.ofBool c ++ x.extractLsb' 1 7 : Byte).toNat = (256 * c.toNat + x.toNat) / 2 := by
  rw [toNat_halved, BitVec.toNat_ofBool]
  omega

/-! ### The instructions -/

/-- A byte written with the flags of a shift (R155 to R157), whichever byte it is. -/
theorem shift_completes {s : State} {d : Reg} {r : Byte} {value : Byte → Prop} (h : value r) :
    Completes (regResult d r (shiftFlags s.flags (s.reg d) r) s) fun t =>
      value (t.reg d) ∧ t.flags.c = decide ((s.reg d).toNat % 2 = 1) ∧ t.flags.n = (t.reg d).getLsbD 7 ∧
      t.flags.v = (t.flags.n ^^ t.flags.c) ∧ t.flags.s = (t.flags.n ^^ t.flags.v) ∧
      t.flags.z = decide (t.reg d = 0#8) ∧ t.pc = s.pc + 1#14 ∧ RegFrame s t [d] 0x1F#8 := by
  refine regResult_completes (mask := 0x1F#8) rfl fun t hreg hflags hpc hframe => ?_
  have hbit : (s.reg d).getLsbD 0 = decide ((s.reg d).toNat % 2 = 1) := by
    rw [getLsbD_eq_decide, Nat.pow_zero, Nat.div_one]
  rw [hreg, hflags]
  exact ⟨h, hbit, rfl, rfl, rfl, rfl, hpc, hframe⟩

/-- Settles O31: the three shifts differ in the bit that enters at the top. -/
theorem shiftsHalveIntoTheCarry : Obligations.ShiftsHalveIntoTheCarry := by
  rintro s d i value (⟨rfl, hvalue⟩ | ⟨rfl, hvalue⟩ | ⟨rfl, hvalue⟩)
  · exact shift_completes ((congrFun hvalue _).mpr (toInt_asr (s.reg d)))
  · exact shift_completes ((congrFun hvalue _).mpr (toNat_lsr (s.reg d)))
  · exact shift_completes ((congrFun hvalue _).mpr (toNat_ror s.flags.c (s.reg d)))

/-! ### Nine rotations -/

/-- C and the register: the nine bits that `ror` rotates (R157). -/
def State.carryAndReg (s : State) (d : Reg) : BitVec 9 := BitVec.ofBool s.flags.c ++ s.reg d

/-- One bit above the `n` of `x`. -/
theorem getLsbD_ofBool_append {n : Nat} (c : Bool) (x : BitVec n) {k : Nat} (hk : k < n + 1) :
    (BitVec.ofBool c ++ x).getLsbD k = if k < n then x.getLsbD k else c := by
  rw [BitVec.getLsbD_append]
  split
  · rfl
  · have htop : k - n = 0 := by omega
    rw [htop, BitVec.getLsbD_ofBool, decide_eq_true rfl, Bool.true_and]

theorem State.carryAndReg_getLsbD (s : State) (d : Reg) {k : Nat} (hk : k < 9) :
    (s.carryAndReg d).getLsbD k = if k < 8 then (s.reg d).getLsbD k else s.flags.c :=
  getLsbD_ofBool_append s.flags.c (s.reg d) hk

/-- `ror` moves the register's bits one place down, the old C in at the top (R157). -/
theorem exec_ror_reg_getLsbD {d : Reg} {s t : State} (h : exec (.ror d) s = .next t) {k : Nat} (hk : k < 8) :
    (t.reg d).getLsbD k = if k < 7 then (s.reg d).getLsbD (k + 1) else s.flags.c := by
  cases h
  rw [State.advance_reg, State.setFlags_reg, State.setReg_reg_self]
  refine (getLsbD_ofBool_append _ _ hk).trans ?_
  split
  · next h7 => rw [BitVec.getLsbD_extractLsb', decide_eq_true h7, Bool.true_and, Nat.add_comm]
  · rfl

/-- The register's lowest bit goes to C (R157). -/
theorem exec_ror_carry {d : Reg} {s t : State} (h : exec (.ror d) s = .next t) :
    t.flags.c = (s.reg d).getLsbD 0 := by
  cases h
  rw [State.advance_flags, State.setFlags_flags]
  rfl

/-- One `ror` moves each of the nine bits one place down, and the lowest to the top. -/
theorem exec_ror_getLsbD {d : Reg} {s t : State} (h : exec (.ror d) s = .next t) {k : Nat} (hk : k < 9) :
    (t.carryAndReg d).getLsbD k = (s.carryAndReg d).getLsbD ((k + 1) % 9) := by
  rw [t.carryAndReg_getLsbD d hk, s.carryAndReg_getLsbD d (Nat.mod_lt _ (by decide))]
  obtain hlow | rfl | rfl : k < 7 ∨ k = 7 ∨ k = 8 := by omega
  · have h8 : k < 8 := by omega
    have hmod : (k + 1) % 9 = k + 1 := by omega
    rw [if_pos h8, exec_ror_reg_getLsbD h h8, if_pos hlow, hmod, if_pos (by omega)]
  · exact exec_ror_reg_getLsbD h (by decide)
  · exact exec_ror_carry h

/-- From `s` to `t`, `n` rotations to the right through C, `pc` moving on with each. -/
structure RotatedRight (d : Reg) (n : Nat) (s t : State) : Prop where
  bits : ∀ k < 9, (t.carryAndReg d).getLsbD k = (s.carryAndReg d).getLsbD ((k + n) % 9)
  pc : t.pc = s.pc + BitVec.ofNat 14 n

theorem RotatedRight.refl (d : Reg) (s : State) : RotatedRight d 0 s s where
  bits k hk := by rw [Nat.add_zero, Nat.mod_eq_of_lt hk]
  pc := (BitVec.add_zero _).symm

theorem RotatedRight.ror {d : Reg} {n : Nat} {s t u : State} (h : RotatedRight d n s t)
    (hu : exec (.ror d) t = .next u) : RotatedRight d (n + 1) s u where
  bits k hk := by
    rw [exec_ror_getLsbD hu hk, h.bits _ (Nat.mod_lt _ (by decide)), Nat.mod_add_mod, Nat.add_right_comm,
      Nat.add_assoc]
  pc := by
    have hpc : u.pc = t.pc + 1#14 := pc_of_next hu rfl
    rw [hpc, h.pc, BitVec.ofNat_add, BitVec.add_assoc]

/-- Settles O32: nine rotations of nine bits take each bit back to its place. -/
theorem nineRotationsRestoreTheRegister : Obligations.NineRotationsRestoreTheRegister := by
  intro s0 s1 s2 s3 s4 s5 s6 s7 s8 s9 d h1 h2 h3 h4 h5 h6 h7 h8 h9
  have hrot : RotatedRight d 9 s0 s9 :=
    (((((((((RotatedRight.refl d s0).ror h1).ror h2).ror h3).ror h4).ror h5).ror h6).ror h7).ror h8).ror h9
  have hbits : s9.carryAndReg d = s0.carryAndReg d := by
    refine BitVec.eq_of_getLsbD_eq fun k hk => ?_
    rw [hrot.bits k hk, Nat.add_mod_right, Nat.mod_eq_of_lt hk]
  obtain ⟨hcarry, hreg⟩ := append_eq_iff.1 hbits
  rw [State.carryAndReg, BitVec.extractLsb'_append_eq_left] at hcarry
  rw [State.carryAndReg, BitVec.extractLsb'_append_eq_right] at hreg
  exact ⟨hreg, BitVec.ofBool_eq_iff_eq.1 hcarry, hrot.pc⟩

end Sys2Proof.Machine
end

section
/-! SUPPORT. The five skips, taken and not taken (spec R103, R161, R162, R177, R204, R206): obligation O37. -/

namespace Sys2Proof.Machine

/-- A skip in full, from the state in which its condition has been read: the condition's read has left `events`. -/
theorem skipIf_passes (c : Bool) (s : State) (events : List IoEvent) :
    (c = false → skipIf c { s with events := events } = .next { s with events := events, pc := s.pc + 1#14 }) ∧
    (∀ w, c = true → programWord (s.pc + 1#14) s = .next w →
      skipIf c { s with events := events } =
        .next { s with events := events, pc := s.pc + 1#14 + BitVec.ofNat 14 (ilen w) }) := by
  constructor
  · rintro rfl
    rfl
  · rintro w rfl hw
    rw [BitVec.add_assoc, ← BitVec.ofNat_add]
    exact skipNext_eq_next.2 ⟨w, hw, rfl⟩

/-- A skip on a bit of an I/O register, its one read done. -/
theorem skipOnIoBit_eq (a : BitVec 5) (n : BitVec 3) (x : Bool) (s : State) :
    skipOnIoBit a n x s =
      skipIf ((Config.deviceRead s.events (0x0020#16 + a.setWidth 16)).getLsbD n.toNat == x)
        { s with events := .read (0x0020#16 + a.setWidth 16) :: s.events } := by
  rw [skipOnIoBit, ioRead_lowIo, andThen_next]
  rfl

theorem exec_sbic (a : BitVec 5) (n : BitVec 3) (s : State) : exec (.sbic a n) s = skipOnIoBit a n false s := rfl

theorem exec_sbis (a : BitVec 5) (n : BitVec 3) (s : State) : exec (.sbis a n) s = skipOnIoBit a n true s := rfl

/-- Settles O37: each of the five is `skipIf` on its condition, `sbic` and `sbis` after their read. -/
theorem skipsPassTheNextInstruction : Obligations.SkipsPassTheNextInstruction := by
  intro s d r a n i holds history word port hmem
  simp only [List.mem_cons, Prod.mk.injEq, List.not_mem_nil, or_false] at hmem
  obtain ⟨rfl, rfl, rfl, rfl⟩ | ⟨rfl, rfl, rfl, rfl⟩ | ⟨rfl, rfl, rfl, rfl⟩ | ⟨rfl, rfl, rfl, rfl⟩ |
    ⟨rfl, rfl, rfl, rfl⟩ := hmem
  · exact ⟨rfl, skipIf_passes (s.reg d == s.reg r) s s.events⟩
  · exact ⟨rfl, skipIf_passes _ s s.events⟩
  · exact ⟨rfl, skipIf_passes _ s s.events⟩
  · rw [exec_sbic, skipOnIoBit_eq, beq_false]
    exact ⟨rfl, skipIf_passes _ s _⟩
  · rw [exec_sbis, skipOnIoBit_eq, beq_true]
    exact ⟨rfl, skipIf_passes _ s _⟩

end Sys2Proof.Machine
end

section
/-! SUPPORT. `mov`, `movw`, `ldi`, `swap`, `bst` and `bld` (spec R153, R159, R160, R184, R185, R224): obligations O33
and O34. -/

namespace Sys2Proof.Machine

theorem toNat_swap (x : Byte) :
    (x.extractLsb' 0 4 ++ x.extractLsb' 4 4 : Byte).toNat = 16 * (x.toNat % 16) + x.toNat / 16 := by
  have := x.isLt
  rw [toNat_append_eq_add, BitVec.extractLsb'_toNat, BitVec.extractLsb'_toNat, Nat.shiftRight_eq_div_pow,
    Nat.shiftRight_eq_div_pow]
  omega

theorem State.setPair_reg_low (s : State) (r : Reg) (v : Word) : (s.setPair r v).reg r = lowByte v := by
  rw [State.setPair_reg, if_neg (reg_ne_succ r), if_pos rfl]

theorem State.setPair_reg_high (s : State) (r : Reg) (v : Word) : (s.setPair r v).reg (r + 1#5) = highByte v := by
  rw [State.setPair_reg, if_pos rfl]

/-- Settles O33: each is a copy into a register, `movw` into a pair. -/
theorem copiesWriteTheirRegisterAlone : Obligations.CopiesWriteTheirRegisterAlone := by
  intro s d r k
  refine ⟨rfl, rfl, ?mov, ?movw, ?ldi, ?swap⟩
  case mov | ldi => exact copyInto_completes fun t hreg hpc hframe => ⟨hreg, hpc, hframe⟩
  case swap =>
    refine copyInto_completes fun t hreg hpc hframe => ⟨?_, hpc, hframe⟩
    rw [hreg, toNat_swap]
  case movw =>
    refine ⟨_, rfl, ?low, ?high, rfl, (regFrame_setPair s d (s.pair r)).trans (regFrame_advance _ 1)⟩
    case low => rw [State.advance_reg, State.setPair_reg_low, State.pair, lowByte_pairOf]
    case high => rw [State.advance_reg, State.setPair_reg_high, State.pair, highByte_pairOf]

/-- Settles O34: `bst` writes the one flag T, `bld` copies a byte in which one bit is set to T. -/
theorem bstAndBldCopyOneBit : Obligations.BstAndBldCopyOneBit := by
  intro s r b
  refine ⟨rfl, ?bst, ?bld⟩
  case bst =>
    refine ⟨_, rfl, ?flag, rfl, (regFrame_advance s 1).setFlags rfl⟩
    rw [State.advance_flags, State.setFlags_flags]
  case bld =>
    refine copyInto_completes fun t hreg hpc hframe => ⟨?_, hpc, hframe⟩
    rw [hreg]
    exact setBit_getLsbD (s.reg r) b s.flags.t

end Sys2Proof.Machine
end

section
/-! SUPPORT. Sums and differences of two bytes: the bit equations of R171 and R172 are their arithmetic readings. -/

namespace Sys2Proof.Machine

/-! ### The results as numbers -/

theorem toNat_carryByte (c : Bool) : (carryByte c).toNat = c.toNat := by cases c <;> rfl

theorem carryByte_eq_ofNat (c : Bool) : carryByte c = BitVec.ofNat 8 c.toNat := by cases c <;> rfl

theorem toNat_addResult (x y : Byte) (c : Bool) :
    (addResult x y c).toNat = (x.toNat + y.toNat + c.toNat) % 256 := by
  rw [addResult, BitVec.toNat_add, BitVec.toNat_add, toNat_carryByte, Nat.mod_add_mod]

/-- A difference and what was taken away make the first byte again: borrows out of it are carries out of this sum. -/
theorem addResult_subResult (x y : Byte) (c : Bool) : addResult (subResult x y c) y c = x := by
  rw [addResult, subResult, BitVec.add_assoc, BitVec.add_comm y, ← BitVec.add_assoc, BitVec.sub_add_cancel,
    BitVec.sub_add_cancel]

theorem toNat_subResult (x y : Byte) (c : Bool) :
    ((subResult x y c).toNat : Int) = (x.toNat - y.toNat - c.toNat : Int) % 256 := by
  have hsum := toNat_addResult (subResult x y c) y c
  rw [addResult_subResult] at hsum
  have := (subResult x y c).isLt
  omega

theorem subResult_eq_zero_iff (x y : Byte) : subResult x y false = 0#8 ↔ x = y := by
  have := x.isLt
  have := y.isLt
  have hdiff := toNat_subResult x y false
  rw [Bool.toNat_false] at hdiff
  rw [BitVec.toNat_eq, BitVec.toNat_eq, BitVec.toNat_ofNat]
  omega

/-! ### Carries and borrows -/

/-- The carry out of a place, from its two bits and the bit of the sum. -/
theorem carryOut_eq_atLeastTwo (a b c : Bool) :
    (a && b || b && !(a ^^ (b ^^ c)) || !(a ^^ (b ^^ c)) && a) = Bool.atLeastTwo a b c := by
  revert a b c
  decide

/-- The carry equation of R171, at any bit: bits 3 and 7 give H and C. -/
theorem carryOut_addResult (x y : Byte) (c : Bool) {k : Nat} (hk : k < 8) :
    (x.getLsbD k && y.getLsbD k || y.getLsbD k && !(addResult x y c).getLsbD k ||
      !(addResult x y c).getLsbD k && x.getLsbD k) =
      decide (2 ^ (k + 1) ≤ x.toNat % 2 ^ (k + 1) + y.toNat % 2 ^ (k + 1) + c.toNat) := by
  rw [addResult, carryByte, BitVec.getLsbD_add_add_bool hk, carryOut_eq_atLeastTwo, ← BitVec.carry_succ]
  rfl

/-- The borrow equation of R172 is the carry equation of the sum that undoes the difference. -/
theorem borrowOut_subResult (x y : Byte) (c : Bool) {k : Nat} (hk : k < 8) :
    (!x.getLsbD k && y.getLsbD k || y.getLsbD k && (subResult x y c).getLsbD k ||
      (subResult x y c).getLsbD k && !x.getLsbD k) =
      decide (2 ^ (k + 1) ≤ (subResult x y c).toNat % 2 ^ (k + 1) + y.toNat % 2 ^ (k + 1) + c.toNat) := by
  rw [← carryOut_addResult _ y c hk, addResult_subResult]
  ac_rfl

/-! ### The two flag functions -/

/-- The bit equations of R171 are its arithmetic readings. -/
theorem addFlags_sumFlags (f : Flags) (x y : Byte) (c : Bool) :
    SumFlags (addFlags f x y (addResult x y c)) x y c (addResult x y c) where
  h := carryOut_addResult x y c (by decide)
  v := by
    have hsum := toNat_addResult x y c
    have := x.isLt
    have := y.isLt
    have := c.toNat_le
    simp only [addFlags, Flags.withNVZ, getLsbD_seven_eq, toInt_byte, ← decide_not, ← Bool.decide_and,
      ← Bool.decide_or, decide_eq_decide]
    omega
  n := getLsbD_seven_eq _
  s := rfl
  z := rfl
  c := by
    have := x.isLt
    have := y.isLt
    refine (carryOut_addResult x y c (k := 7) (by decide)).trans (decide_eq_decide.2 ?_)
    omega

/-- The bit equations of R172 are its arithmetic readings. -/
theorem subFlags_differenceFlags (f : Flags) (x y : Byte) (c chain : Bool) :
    DifferenceFlags f (subFlags f x y (subResult x y c) chain) x y c (subResult x y c) chain where
  h := by
    have hdiff := toNat_subResult x y c
    have := c.toNat_le
    refine (borrowOut_subResult x y c (k := 3) (by decide)).trans (decide_eq_decide.2 ?_)
    omega
  v := by
    have hdiff := toNat_subResult x y c
    have := x.isLt
    have := y.isLt
    have := c.toNat_le
    simp only [subFlags, Flags.withNVZ, getLsbD_seven_eq, toInt_byte, ← decide_not, ← Bool.decide_and,
      ← Bool.decide_or, decide_eq_decide]
    omega
  n := getLsbD_seven_eq _
  s := rfl
  z := by
    cases chain
    · exact (Bool.and_true _).symm
    · rfl
  c := by
    have hdiff := toNat_subResult x y c
    have := x.isLt
    have := y.isLt
    have := c.toNat_le
    refine (borrowOut_subResult x y c (k := 7) (by decide)).trans (decide_eq_decide.2 ?_)
    omega

end Sys2Proof.Machine
end

section
/-! SUPPORT. Addition, subtraction, comparison and logic of two operands (spec R170 to R183, R225 to R229): obligations
O24, O25, O26 and O29. -/

namespace Sys2Proof.Machine

/-! ### The shapes -/

theorem addInto_completes (s : State) (d : Reg) (y : Byte) (c : Bool) :
    Completes (addInto d y c s) fun t =>
      (t.reg d).toNat = ((s.reg d).toNat + y.toNat + c.toNat) % 256 ∧
      SumFlags t.flags (s.reg d) y c (t.reg d) ∧ t.pc = s.pc + 1#14 ∧ RegFrame s t [d] 0x3F#8 := by
  refine regResult_completes (mask := 0x3F#8) rfl fun t hreg hflags hpc hframe => ?_
  rw [hreg, hflags]
  exact ⟨toNat_addResult .., addFlags_sumFlags .., hpc, hframe⟩

theorem subInto_completes (s : State) (d : Reg) (y : Byte) (c chain : Bool) :
    Completes (subInto d y c chain s) fun t =>
      ((t.reg d).toNat : Int) = ((s.reg d).toNat - y.toNat - c.toNat : Int) % 256 ∧
      DifferenceFlags s.flags t.flags (s.reg d) y c (t.reg d) chain ∧ t.pc = s.pc + 1#14 ∧
      RegFrame s t [d] 0x3F#8 := by
  refine regResult_completes (mask := 0x3F#8) rfl fun t hreg hflags hpc hframe => ?_
  rw [hreg, hflags]
  exact ⟨toNat_subResult .., subFlags_differenceFlags .., hpc, hframe⟩

/-- What a compare that completes leaves: the flags of the difference, no register written (R174, R178, R225). -/
theorem compare_differenceFlags {s t : State} {d : Reg} {y : Byte} {c chain : Bool}
    (h : compare d y c chain s = .next t) :
    DifferenceFlags s.flags t.flags (s.reg d) y c (subResult (s.reg d) y c) chain ∧ t.pc = s.pc + 1#14 ∧
      RegFrame s t [] 0x3F#8 := by
  cases h
  refine ⟨?flags, rfl, (regFrame_advance s 1).setFlags rfl⟩
  rw [State.advance_flags, State.setFlags_flags]
  exact subFlags_differenceFlags ..

theorem logicInto_completes (s : State) (d : Reg) (v : Byte) :
    Completes (logicInto d v s) fun t =>
      t.reg d = v ∧ t.flags.v = false ∧ t.flags.n = v.getLsbD 7 ∧ t.flags.s = v.getLsbD 7 ∧
      t.flags.z = decide (v = 0#8) ∧ t.pc = s.pc + 1#14 ∧ RegFrame s t [d] 0x1E#8 := by
  refine regResult_completes (mask := 0x1E#8) rfl fun t hreg hflags hpc hframe => ?_
  rw [hflags]
  exact ⟨hreg, rfl, rfl, Bool.xor_false _, rfl, hpc, hframe⟩

/-! ### The instructions -/

/-- Settles O24: both are `addInto`, without and with the carry. -/
theorem addAndAdcAreSumsWithSixFlags : Obligations.AddAndAdcAreSumsWithSixFlags := by
  intro s d r i cin hmem
  simp only [List.mem_cons, Prod.mk.injEq, List.not_mem_nil, or_false] at hmem
  obtain ⟨rfl, rfl⟩ | ⟨rfl, rfl⟩ := hmem
  · exact addInto_completes s d (s.reg r) false
  · exact addInto_completes s d (s.reg r) s.flags.c

/-- Settles O25: all four are `subInto`, those with the borrow chaining Z. -/
theorem subtractsAreDifferencesWithSixFlags : Obligations.SubtractsAreDifferencesWithSixFlags := by
  intro s d r k i y cin chain hmem
  simp only [List.mem_cons, Prod.mk.injEq, List.not_mem_nil, or_false] at hmem
  obtain ⟨rfl, rfl, rfl, rfl⟩ | ⟨rfl, rfl, rfl, rfl⟩ | ⟨rfl, rfl, rfl, rfl⟩ | ⟨rfl, rfl, rfl, rfl⟩ := hmem
  · exact subInto_completes s d (s.reg r) false false
  · exact subInto_completes s d (s.reg r) s.flags.c true
  · exact subInto_completes s d y false false
  · exact subInto_completes s d y s.flags.c true

/-- Settles O26: all three are `compare`, `cpc` with the borrow and chaining Z. -/
theorem comparesSetTheFlagsOfTheDifference : Obligations.ComparesSetTheFlagsOfTheDifference := by
  intro s d r k i y cin chain hmem
  have hexec : exec i s = compare d y cin chain s := by
    simp only [List.mem_cons, Prod.mk.injEq, List.not_mem_nil, or_false] at hmem
    obtain ⟨rfl, rfl, rfl, rfl⟩ | ⟨rfl, rfl, rfl, rfl⟩ | ⟨rfl, rfl, rfl, rfl⟩ := hmem <;> rfl
  rw [← carryByte_eq_ofNat]
  exact ⟨_, hexec, compare_differenceFlags rfl⟩

/-- Settles O29: all five are `logicInto`. -/
theorem logicResultsAndTheirFlags : Obligations.LogicResultsAndTheirFlags := by
  intro s d r k i v hmem
  have hexec : exec i s = logicInto d v s := by
    simp only [List.mem_cons, Prod.mk.injEq, List.not_mem_nil, or_false] at hmem
    obtain ⟨rfl, rfl⟩ | ⟨rfl, rfl⟩ | ⟨rfl, rfl⟩ | ⟨rfl, rfl⟩ | ⟨rfl, rfl⟩ := hmem <;> rfl
  rw [hexec]
  exact logicInto_completes s d v

end Sys2Proof.Machine
end

section
/-! SUPPORT. What a compare tells about the order of the operands, to a branch after it and to a second compare (spec
R174, R178, R293, R294): obligations O27 and O28. -/

namespace Sys2Proof.Machine

/-! ### The flags of a difference as an order -/

/-- S is the sign of the difference before it is wrapped: N corrected by the overflow (R29, R172). -/
theorem DifferenceFlags.s_eq_lower {old f : Flags} {x y : Byte} {c chain : Bool}
    (h : DifferenceFlags old f x y c (subResult x y c) chain) :
    f.s = decide (x.toInt < y.toInt + c.toNat) := by
  have hdiff := toNat_subResult x y c
  have := x.isLt
  have := y.isLt
  have := c.toNat_le
  rw [h.s, h.n, h.v, Bool.eq_iff_iff, decide_eq_true_iff]
  refine bne_iff_ne.trans ?_
  rw [Ne, decide_eq_decide]
  simp only [toInt_byte]
  omega

/-- Without a borrow in and without a chain, Z says that the operands are equal. -/
theorem DifferenceFlags.z_eq_equal {old f : Flags} {x y : Byte}
    (h : DifferenceFlags old f x y false (subResult x y false) false) : f.z = decide (x = y) := by
  rw [h.z, Bool.not_false, Bool.true_or, Bool.and_true, decide_eq_decide]
  exact subResult_eq_zero_iff x y

theorem exec_cp (d r : Reg) (s : State) : exec (.cp d r) s = compare d (s.reg r) false false s := rfl

theorem exec_cpc (d r : Reg) (s : State) : exec (.cpc d r) s = compare d (s.reg r) s.flags.c true s := rfl

/-- The flags `cp` leaves, as the order of its operands. -/
theorem exec_cp_flags {s t : State} {d r : Reg} (h : exec (.cp d r) s = .next t) :
    t.flags.z = decide (s.reg d = s.reg r) ∧ t.flags.c = decide ((s.reg d).toNat < (s.reg r).toNat) ∧
      t.flags.s = decide ((s.reg d).toInt < (s.reg r).toInt) := by
  obtain ⟨hflags, -, -⟩ := compare_differenceFlags ((exec_cp d r s).symm.trans h)
  have hs := hflags.s_eq_lower
  rw [Bool.toNat_false, Int.natCast_zero, Int.add_zero] at hs
  exact ⟨hflags.z_eq_equal, hflags.c, hs⟩

theorem exec_cp_reg {s t : State} {d r : Reg} (h : exec (.cp d r) s = .next t) (q : Reg) : t.reg q = s.reg q := by
  obtain ⟨-, -, hframe⟩ := compare_differenceFlags ((exec_cp d r s).symm.trans h)
  exact hframe.regs q List.not_mem_nil

/-! ### Branches -/

/-- A branch on a condition that a flag stands for. -/
theorem branchIf_decide (p : Prop) [Decidable p] (k : BitVec 7) (s : State) :
    branchIf (decide p) k s =
      .next (s.withPc (if p then s.pc + 1#14 + k.signExtend 14 else s.pc + 1#14)) := by
  by_cases hp : p
  · rw [decide_eq_true hp, if_pos hp]
    rfl
  · rw [decide_eq_false hp, if_neg hp]
    rfl

theorem exec_brbs_of_flag {b : BitVec 3} {s : State} {p : Prop} [Decidable p]
    (h : s.sreg.getLsbD b.toNat = decide p) (k : BitVec 7) :
    exec (.brbs b k) s = .next (s.withPc (if p then s.pc + 1#14 + k.signExtend 14 else s.pc + 1#14)) := by
  rw [← branchIf_decide, ← h]
  rfl

theorem exec_brbc_of_flag {b : BitVec 3} {s : State} {p q : Prop} [Decidable p] [Decidable q]
    (h : s.sreg.getLsbD b.toNat = decide q) (hpq : ¬q ↔ p) (k : BitVec 7) :
    exec (.brbc b k) s = .next (s.withPc (if p then s.pc + 1#14 + k.signExtend 14 else s.pc + 1#14)) := by
  rw [← branchIf_decide, ← decide_eq_decide.2 hpq, decide_not, ← h]
  rfl

/-- Settles O27: Z, C and S after `cp` are the order of the operands, and each branch tests one of them. -/
theorem branchesAfterACompareOrderTheOperands : Obligations.BranchesAfterACompareOrderTheOperands := by
  intro s t d r k h
  obtain ⟨hz, hc, hs⟩ := exec_cp_flags h
  exact ⟨exec_brbs_of_flag (b := 1#3) hz k, exec_brbc_of_flag (b := 1#3) hz Iff.rfl k,
    exec_brbs_of_flag (b := 0#3) hc k, exec_brbc_of_flag (b := 0#3) hc Nat.not_lt k,
    exec_brbs_of_flag (b := 4#3) hs k, exec_brbc_of_flag (b := 4#3) hs Int.not_lt k⟩

/-! ### The order of two 16-bit numbers, by their bytes -/

theorem toInt_append_byte (h l : Byte) : (h ++ l : Word).toInt = 256 * h.toInt + l.toNat := by
  rw [BitVec.toInt_append]
  rfl

theorem append_byte_eq_iff (xh xl yh yl : Byte) : (xh ++ xl : Word) = yh ++ yl ↔ xh = yh ∧ xl = yl := by
  rw [append_eq_iff, BitVec.extractLsb'_append_eq_left, BitVec.extractLsb'_append_eq_right]

/-- Unsigned, the low bytes decide through their borrow. -/
theorem toNat_append_lt_iff (xh xl yh yl : Byte) :
    (xh ++ xl : Word).toNat < (yh ++ yl : Word).toNat ↔
      xh.toNat < yh.toNat + (decide (xl.toNat < yl.toNat)).toNat := by
  have := xl.isLt
  have := yl.isLt
  rw [toNat_append_eq_add, toNat_append_eq_add]
  by_cases hlow : xl.toNat < yl.toNat
  · rw [decide_eq_true hlow, Bool.toNat_true]
    omega
  · rw [decide_eq_false hlow, Bool.toNat_false]
    omega

/-- Signed, only the high bytes carry a sign. -/
theorem toInt_append_lt_iff (xh xl yh yl : Byte) :
    (xh ++ xl : Word).toInt < (yh ++ yl : Word).toInt ↔
      xh.toInt < yh.toInt + (decide (xl.toNat < yl.toNat)).toNat := by
  have := xl.isLt
  have := yl.isLt
  rw [toInt_append_byte, toInt_append_byte]
  by_cases hlow : xl.toNat < yl.toNat
  · rw [decide_eq_true hlow, Bool.toNat_true]
    omega
  · rw [decide_eq_false hlow, Bool.toNat_false]
    omega

/-- Two numbers are equal when their low bytes are, which then give no borrow, and the high bytes leave nothing. -/
theorem append_eq_iff_subResult (xh xl yh yl : Byte) :
    (xh ++ xl : Word) = yh ++ yl ↔ subResult xh yh (decide (xl.toNat < yl.toNat)) = 0#8 ∧ xl = yl := by
  rw [append_byte_eq_iff]
  refine and_congr_left fun hlow => ?_
  rw [hlow, decide_eq_false (Nat.lt_irrefl _), subResult_eq_zero_iff]

/-- Settles O28: `cpc` takes the borrow of the low bytes from C and their equality from Z. -/
theorem cpThenCpcComparesSixteenBits : Obligations.CpThenCpcComparesSixteenBits := by
  intro s t u dl rl dh rh hcp hcpc x y
  obtain ⟨hz, hc, -⟩ := exec_cp_flags hcp
  obtain ⟨hflags, -, -⟩ := compare_differenceFlags ((exec_cpc dh rh t).symm.trans hcpc)
  rw [exec_cp_reg hcp, exec_cp_reg hcp, hc] at hflags
  refine ⟨?z, ?c, ?s⟩
  case z =>
    rw [hflags.z, hz, Bool.not_true, Bool.false_or, ← Bool.decide_and, decide_eq_decide]
    exact (append_eq_iff_subResult ..).symm
  case c => exact hflags.c.trans (decide_eq_decide.2 (toNat_append_lt_iff ..).symm)
  case s => exact hflags.s_eq_lower.trans (decide_eq_decide.2 (toInt_append_lt_iff ..).symm)

end Sys2Proof.Machine
end

section
/-! SUPPORT. The six multiplies (spec R190 to R196): obligation O35. -/

namespace Sys2Proof.Machine

/-! ### A register pair as result -/

/-- A computed word with its flags, and its frame, when the flags outside `mask` are the old ones. -/
theorem pairResult_completes {s : State} {d : Reg} {v : Word} {f : Flags} {mask : Byte} {P : State → Prop}
    (hf : s.flags.updateAt mask f = f)
    (h : ∀ t, t.pair d = v → t.flags = f → t.pc = s.pc + 1#14 → RegFrame s t [d, d + 1#5] mask → P t) :
    Completes (pairResult d v f s) P := by
  refine ⟨_, rfl, h _ ?value ?flags rfl (((regFrame_setPair s d v).trans (regFrame_advance _ 1)).setFlags hf)⟩
  case value => rw [State.advance_pair, State.setFlags_pair, State.setPair_pair_self]
  case flags => rw [State.advance_flags, State.setFlags_flags]

/-- The word that r1:r0 make. -/
theorem State.pair_zero (s : State) : s.pair 0#5 = s.reg 1#5 ++ s.reg 0#5 := rfl

/-- Bit 15 of two bytes is bit 7 of the upper one. -/
theorem append_byte_getLsbD_fifteen (h l : Byte) : (h ++ l : Word).getLsbD 15 = h.getLsbD 7 := by
  rw [BitVec.getLsbD_append, if_neg (by decide)]

/-- What `productResult` leaves: the word written in r1:r0, bit 15 of the product in C, and Z of the word (R190). -/
theorem productResult_completes {p w : Word} {s : State} {P : State → Prop}
    (h : ∀ t, (t.reg 1#5 ++ t.reg 0#5 : Word) = w → t.flags.c = p.getLsbD 15 → t.flags.z = decide (w = 0#16) →
      t.pc = s.pc + 1#14 → RegFrame s t [0#5, 1#5] 0x03#8 → P t) :
    Completes (productResult p w s) P := by
  refine pairResult_completes (mask := 0x03#8) rfl fun t hpair hflags hpc hframe => ?_
  refine h t (t.pair_zero.symm.trans hpair) ?c ?z hpc hframe
  case c => rw [hflags]; rfl
  case z => rw [hflags]; rfl

/-! ### The products -/

/-- A product of two unsigned bytes fits a word (R191). -/
theorem toNat_ofNat_mul (x y : Byte) : (BitVec.ofNat 16 (x.toNat * y.toNat)).toNat = x.toNat * y.toNat := by
  have hxy : x.toNat * y.toNat < 2 ^ 8 * 2 ^ 8 := Nat.mul_lt_mul'' x.isLt y.isLt
  rw [BitVec.toNat_ofNat]
  exact Nat.mod_eq_of_lt hxy

/-- A product of a signed byte and a byte of either reading fits a signed word (R192, R193). -/
theorem toInt_ofInt_mul (x : Byte) {y : Int} (hy : y.natAbs ≤ 255) :
    (BitVec.ofInt 16 (x.toInt * y)).toInt = x.toInt * y := by
  have hx : x.toInt.natAbs ≤ 128 := by
    have := x.isLt
    rw [toInt_byte]
    omega
  have hxy : (x.toInt * y).natAbs ≤ 128 * 255 := by
    rw [Int.natAbs_mul]
    exact Nat.mul_le_mul hx hy
  exact BitVec.toInt_ofInt_eq_self (by decide) (by omega) (by omega)

theorem natAbs_toInt_byte_le (y : Byte) : y.toInt.natAbs ≤ 255 := by
  have := y.isLt
  rw [toInt_byte]
  omega

theorem natAbs_toNat_byte_le (y : Byte) : (y.toNat : Int).natAbs ≤ 255 := Nat.le_of_lt_succ y.isLt

/-! ### The two kinds of multiply -/

/-- A product written as it is, whichever way its operands are read (R191 to R193). -/
theorem product_completes {s : State} {p : Word} {exact : Word → Prop} (h : exact p) :
    Completes (productResult p p s) fun t =>
      exact (t.reg 1#5 ++ t.reg 0#5) ∧ t.flags.c = (t.reg 1#5).getLsbD 7 ∧
      t.flags.z = decide (t.reg 1#5 ++ t.reg 0#5 = 0#16) ∧ t.pc = s.pc + 1#14 ∧
      RegFrame s t [0#5, 1#5] 0x03#8 := by
  refine productResult_completes fun t hword hc hz hpc hframe => ?_
  subst hword
  exact ⟨h, hc.trans (append_byte_getLsbD_fifteen ..), hz, hpc, hframe⟩

/-- Shifted left by one, a word is twice the number it holds. -/
theorem toNat_ofInt_shiftLeft_one (p : Int) : ((BitVec.ofInt 16 p <<< 1).toNat : Int) = 2 * p % 65536 := by
  rw [BitVec.toNat_shiftLeft, BitVec.toNat_ofInt, Nat.shiftLeft_eq]
  omega

/-- Bit 15, the one a shift by one drops. -/
theorem ofInt_getLsbD_fifteen (p : Int) : (BitVec.ofInt 16 p).getLsbD 15 = decide (32768 ≤ p % 65536) := by
  rw [getLsbD_eq_decide, decide_eq_decide, BitVec.toNat_ofInt]
  omega

/-- A product written shifted left by one, whichever way its operands are read (R194 to R196). -/
theorem doubledProduct_completes (s : State) (p : Int) :
    Completes (productResult (BitVec.ofInt 16 p) (BitVec.ofInt 16 p <<< 1) s) fun t =>
      ((t.reg 1#5 ++ t.reg 0#5 : Word).toNat : Int) = 2 * p % 65536 ∧
      t.flags.c = decide (32768 ≤ p % 65536) ∧ t.flags.z = decide (t.reg 1#5 ++ t.reg 0#5 = 0#16) ∧
      t.pc = s.pc + 1#14 ∧ RegFrame s t [0#5, 1#5] 0x03#8 := by
  refine productResult_completes fun t hword hc hz hpc hframe => ?_
  rw [hword]
  exact ⟨toNat_ofInt_shiftLeft_one p, hc.trans (ofInt_getLsbD_fifteen p), hz, hpc, hframe⟩

/-- The unsigned product as an integer, the one form that `doubledProduct_completes` takes all three in (R194). -/
theorem exec_fmul (d r : Reg) (s : State) :
    exec (.fmul d r) s =
      let p : Word := BitVec.ofInt 16 ((s.reg d).toNat * (s.reg r).toNat)
      productResult p (p <<< 1) s := by
  rw [← Int.natCast_mul, BitVec.ofInt_natCast]
  rfl

/-- Settles O35: a product that fits its word, or one doubled; the operands' signs only choose the number. -/
theorem multipliesWriteTheProduct : Obligations.MultipliesWriteTheProduct := by
  refine ⟨?plain, ?fractional⟩
  case plain =>
    rintro s d r i exact (⟨rfl, hexact⟩ | ⟨rfl, hexact⟩ | ⟨rfl, hexact⟩)
    · exact product_completes ((congrFun hexact _).mpr (toNat_ofNat_mul (s.reg d) (s.reg r)))
    · exact product_completes ((congrFun hexact _).mpr (toInt_ofInt_mul (s.reg d) (natAbs_toInt_byte_le (s.reg r))))
    · exact product_completes ((congrFun hexact _).mpr (toInt_ofInt_mul (s.reg d) (natAbs_toNat_byte_le (s.reg r))))
  case fractional =>
    intro s d r i p h
    simp only [List.mem_cons, List.not_mem_nil, or_false, Prod.mk.injEq] at h
    obtain ⟨rfl, rfl⟩ | ⟨rfl, rfl⟩ | ⟨rfl, rfl⟩ := h
    · rw [exec_fmul]
      exact doubledProduct_completes s _
    · exact doubledProduct_completes s ((s.reg d).toInt * (s.reg r).toInt)
    · exact doubledProduct_completes s ((s.reg d).toInt * (s.reg r).toNat)

end Sys2Proof.Machine
end

section
/-! SUPPORT. `in`, `out`, `cbi` and `sbi` (spec R69, R200 to R203, R205): obligations O38 and O39. -/

namespace Sys2Proof.Machine

/-! ### The I/O registers in the data space (R40, R70) -/

theorem ioAddr_toNat_le (a : BitVec 6) : (ioAddr a).toNat ≤ 0x08FF := by
  revert a
  decide

theorem ioAddr_eq_splAddr {a : BitVec 6} : ioAddr a = Config.splAddr ↔ a = 0x3D#6 := by
  revert a
  decide

theorem ioAddr_eq_sphAddr {a : BitVec 6} : ioAddr a = Config.sphAddr ↔ a = 0x3E#6 := by
  revert a
  decide

theorem ioAddr_eq_sregAddr {a : BitVec 6} : ioAddr a = Config.sregAddr ↔ a = 0x3F#6 := by
  revert a
  decide

/-- The three I/O registers of the CPU are the last ones; all below them are devices. -/
theorem dataPlace_ioAddr_eq_device {a : BitVec 6} : dataPlace (ioAddr a) = .device ↔ a.toNat < 0x3D := by
  revert a
  decide

theorem dataPlace_ioAddr_of_ne {a : BitVec 6} (hl : a ≠ 0x3D#6) (hh : a ≠ 0x3E#6) (hs : a ≠ 0x3F#6) :
    dataPlace (ioAddr a) = .device :=
  dataPlace_ioAddr_eq_device.2 (by bv_omega)

/-! ### Reads and writes of SREG and of devices, as data -/

@[simp] theorem State.dataByte_sregAddr (s : State) : s.dataByte Config.sregAddr = some s.sreg := rfl

@[simp] theorem State.readByte_sregAddr (s : State) : s.readByte Config.sregAddr = s.sreg := rfl

theorem State.readByte_of_device {a : DataAddr} (s : State) (h : dataPlace a = .device) :
    s.readByte a = Config.deviceRead s.events a := by
  simp only [State.readByte, State.dataByte, h, Option.getD_none]

theorem ByteStored.sreg_of_sregAddr {s t : State} {v : Byte} (h : ByteStored s t Config.sregAddr v []) :
    t.sreg = v := by
  have hbyte : t.dataByte Config.sregAddr = some v := h.stored (by decide) List.not_mem_nil
  exact Option.some.inj hbyte

theorem ByteStored.sreg_of_ne {s t : State} {a : DataAddr} {v : Byte} (h : ByteStored s t a v [])
    (ha : Config.sregAddr ≠ a) : t.sreg = s.sreg := by
  have hbyte : t.dataByte Config.sregAddr = s.dataByte Config.sregAddr :=
    h.frame.bytes _ (mt List.mem_singleton.1 ha)
  exact Option.some.inj hbyte

/-! ### `in` and `out` -/

/-- What a read of an I/O register gives. -/
theorem State.readByte_ioAddr (s : State) (a : BitVec 6) :
    s.readByte (ioAddr a) =
      if a = 0x3D#6 then lowByte s.sp else if a = 0x3E#6 then highByte s.sp
      else if a = 0x3F#6 then s.sreg else Config.deviceRead s.events (ioAddr a) := by
  by_cases hl : a = 0x3D#6
  · rw [if_pos hl, ioAddr_eq_splAddr.2 hl, State.readByte_splAddr]
  rw [if_neg hl]
  by_cases hh : a = 0x3E#6
  · rw [if_pos hh, ioAddr_eq_sphAddr.2 hh, State.readByte_sphAddr]
  rw [if_neg hh]
  by_cases hs : a = 0x3F#6
  · rw [if_pos hs, ioAddr_eq_sregAddr.2 hs, State.readByte_sregAddr]
  rw [if_neg hs]
  exact s.readByte_of_device (dataPlace_ioAddr_of_ne hl hh hs)

/-- A read of an I/O register is observed when it is a device. -/
theorem State.afterRead_ioAddr (s : State) (a : BitVec 6) :
    s.afterRead (ioAddr a) =
      { s with events := if a.toNat < 0x3D then .read (ioAddr a) :: s.events else s.events } := by
  simp only [State.afterRead, State.eventsAfterRead, dataPlace_ioAddr_eq_device]

/-- `in` is a load at the register's data address (R200). -/
theorem exec_inp (d : Reg) (a : BitVec 6) (s : State) : exec (.inp d a) s = loadAt d (ioAddr a) 1 s := rfl

/-- `out` is a store at the register's data address (R200). -/
theorem exec_out (a : BitVec 6) (r : Reg) (s : State) : exec (.out a r) s = storeAt (ioAddr a) r 1 s := rfl

/-- Settles O38: a load and a store at an address that is SPL, SPH, SREG or a device, each told by its own lemma. -/
theorem inReadsAndOutWritesTheIoRegister : Obligations.InReadsAndOutWritesTheIoRegister := by
  refine ⟨fun s d a => ?inp, fun s a r => ?out⟩
  case inp =>
    refine ⟨_, (exec_inp d a s).trans (loadAt_inside d 1 s (ioAddr_toNat_le a)), ?value, rfl, ?frame⟩
    case value =>
      rw [State.advance_reg, State.setReg_reg_self]
      exact s.readByte_ioAddr a
    case frame =>
      rw [s.afterRead_ioAddr a]
      exact regFrame_setReg_advance ..
  case out =>
    obtain ⟨u, hu, hstored, hpc, hsp⟩ := memWrite_inside s (s.reg r) (ioAddr_toNat_le a)
    simp only [ioAddr_eq_splAddr, ioAddr_eq_sphAddr] at hsp
    refine ⟨_, (exec_out a r s).trans (storeAt_eq_next.2 ⟨u, hu, rfl⟩), congrArg (· + 1#14) hpc, hstored.advance 1,
      ?sreg, ?otherSreg, ?spl, ?sph, ?device⟩
    case sreg =>
      rintro rfl
      exact hstored.sreg_of_sregAddr
    case otherSreg => exact fun hs => hstored.sreg_of_ne fun h => hs (ioAddr_eq_sregAddr.1 h.symm)
    case spl => exact fun hl => hsp.trans (if_pos hl)
    case sph =>
      rintro rfl
      exact hsp
    case device =>
      intro hdev
      have hl : a ≠ 0x3D#6 := by bv_omega
      have hh : a ≠ 0x3E#6 := by bv_omega
      refine ⟨hsp.trans ((if_neg hl).trans (if_neg hh)), hstored.events.trans ?_⟩
      exact if_pos (dataPlace_ioAddr_eq_device.2 hdev)

/-! ### `cbi` and `sbi` -/

theorem ioWrite_lowIo (a : BitVec 5) (v : Byte) (s : State) :
    ioWrite (lowIo a) v s = .next (s.record (.write (0x0020#16 + a.setWidth 16) v)) := by
  rw [← ioAddr_lowIo]
  simp only [ioWrite, memWrite, dataPlace_lowIo]

/-- One read, one write of the whole byte, and `pc` moved on (R69). -/
theorem changeIoBit_eq_next (a : BitVec 5) (b : BitVec 3) (x : Bool) (s : State) :
    changeIoBit a b x s = .next { s with
      events := .write (0x0020#16 + a.setWidth 16)
          (setBit (Config.deviceRead s.events (0x0020#16 + a.setWidth 16)) b x) ::
        .read (0x0020#16 + a.setWidth 16) :: s.events
      pc := s.pc + 1#14 } := by
  rw [changeIoBit, ioRead_lowIo, andThen_next, ioWrite_lowIo, andThen_next]
  rfl

theorem exec_cbi (a : BitVec 5) (b : BitVec 3) (s : State) : exec (.cbi a b) s = changeIoBit a b false s := rfl

theorem exec_sbi (a : BitVec 5) (b : BitVec 3) (s : State) : exec (.sbi a b) s = changeIoBit a b true s := rfl

/-- Settles O39: both change one bit of the device's answer and write the byte back. -/
theorem cbiAndSbiRewriteOneIoByte : Obligations.CbiAndSbiRewriteOneIoByte := by
  intro s a b i x hmem port
  have hexec : exec i s = changeIoBit a b x s := by
    simp only [List.mem_cons, Prod.mk.injEq, List.not_mem_nil, or_false] at hmem
    obtain ⟨rfl, rfl⟩ | ⟨rfl, rfl⟩ := hmem
    · exact exec_cbi a b s
    · exact exec_sbi a b s
  exact ⟨setBit (Config.deviceRead s.events port) b x, setBit_getLsbD _ b x,
    hexec.trans (changeIoBit_eq_next a b x s)⟩

end Sys2Proof.Machine
end

section
/-! SUPPORT. `adiw` and `sbiw` (spec R230 to R232): obligation O36. -/

namespace Sys2Proof.Machine

/-! ### Words as numbers -/

theorem toInt_word (w : Word) : w.toInt = if w.toNat < 32768 then (w.toNat : Int) else w.toNat - 65536 := by
  rw [BitVec.toInt_eq_toNat_cond]
  split <;> split <;> omega

/-- Bit 15 of a word is its sign. -/
theorem getLsbD_fifteen_eq (w : Word) : w.getLsbD 15 = decide (32768 ≤ w.toNat) := by
  have := w.isLt
  rw [getLsbD_eq_decide, decide_eq_decide]
  omega

/-- Bit 15 of a pair is bit 7 of its high register. -/
theorem State.pair_getLsbD_fifteen (s : State) (d : Reg) : (s.pair d).getLsbD 15 = (s.reg (d + 1#5)).getLsbD 7 :=
  append_byte_getLsbD_fifteen ..

/-- An immediate of `adiw` and `sbiw` as a word is the number it is. -/
theorem toNat_setWidth_immediate (k : BitVec 6) : (k.setWidth 16).toNat = k.toNat :=
  BitVec.toNat_setWidth_of_le (by decide)

theorem toNat_add_immediate (w : Word) (k : BitVec 6) :
    ((w + k.setWidth 16).toNat : Int) = (w.toNat + k.toNat : Int) % 65536 := by
  rw [BitVec.toNat_add, toNat_setWidth_immediate]
  omega

theorem toNat_sub_immediate (w : Word) (k : BitVec 6) :
    ((w - k.setWidth 16).toNat : Int) = (w.toNat - k.toNat : Int) % 65536 := by
  have := w.isLt
  have := k.isLt
  rw [BitVec.toNat_sub, toNat_setWidth_immediate]
  omega

/-! ### The flags as readings of the exact result -/

/-- The old flags with those of a 16-bit result `r`, where `x` is the exact result of the unsigned and `sx` that of the
signed reading: C and V tell whether it left the range. -/
def wordFlags (f : Flags) (r : Word) (x sx : Int) : Flags :=
  { f.withNVZ (r.getLsbD 15) (decide (sx < -32768 ∨ 32767 < sx)) (r == 0#16) with
    c := decide (x < 0 ∨ 65536 ≤ x) }

/-- The bit equations of R231 are the arithmetic readings: an immediate is too small to carry past the other sign. -/
theorem adiwFlags_eq_wordFlags (f : Flags) (w : Word) (k : BitVec 6) :
    adiwFlags f w (w + k.setWidth 16) = wordFlags f (w + k.setWidth 16) (w.toNat + k.toNat) (w.toInt + k.toNat) := by
  have hsum := toNat_add_immediate w k
  have := w.isLt
  have := k.isLt
  have hv : (!w.getLsbD 15 && (w + k.setWidth 16).getLsbD 15) =
      decide (w.toInt + k.toNat < -32768 ∨ 32767 < w.toInt + k.toNat) := by
    simp only [getLsbD_fifteen_eq, toInt_word, ← decide_not, ← Bool.decide_and, decide_eq_decide]
    omega
  have hc : (!(w + k.setWidth 16).getLsbD 15 && w.getLsbD 15) =
      decide ((w.toNat + k.toNat : Int) < 0 ∨ 65536 ≤ (w.toNat + k.toNat : Int)) := by
    simp only [getLsbD_fifteen_eq, ← decide_not, ← Bool.decide_and, decide_eq_decide]
    omega
  rw [adiwFlags, wordFlags, hv, hc]

/-- The bit equations of R232 are the arithmetic readings. -/
theorem sbiwFlags_eq_wordFlags (f : Flags) (w : Word) (k : BitVec 6) :
    sbiwFlags f w (w - k.setWidth 16) = wordFlags f (w - k.setWidth 16) (w.toNat - k.toNat) (w.toInt - k.toNat) := by
  have hdiff := toNat_sub_immediate w k
  have := w.isLt
  have := k.isLt
  have hv : (w.getLsbD 15 && !(w - k.setWidth 16).getLsbD 15) =
      decide (w.toInt - k.toNat < -32768 ∨ 32767 < w.toInt - k.toNat) := by
    simp only [getLsbD_fifteen_eq, toInt_word, ← decide_not, ← Bool.decide_and, decide_eq_decide]
    omega
  have hc : ((w - k.setWidth 16).getLsbD 15 && !w.getLsbD 15) =
      decide ((w.toNat - k.toNat : Int) < 0 ∨ 65536 ≤ (w.toNat - k.toNat : Int)) := by
    simp only [getLsbD_fifteen_eq, ← decide_not, ← Bool.decide_and, decide_eq_decide]
    omega
  rw [sbiwFlags, wordFlags, hv, hc]

/-! ### The instructions -/

/-- All that a word result with the flags of its two readings leaves. -/
theorem wordResult_completes {s : State} {d : Reg} {r : Word} {x sx : Int} (hr : (r.toNat : Int) = x % 65536) :
    Completes (pairResult d r (wordFlags s.flags r x sx) s) fun t =>
      ((t.pair d).toNat : Int) = x % 65536 ∧ t.flags.c = decide (x < 0 ∨ 65536 ≤ x) ∧
      t.flags.v = decide (sx < -32768 ∨ 32767 < sx) ∧ t.flags.n = (t.reg (d + 1#5)).getLsbD 7 ∧
      t.flags.s = (t.flags.n ^^ t.flags.v) ∧ t.flags.z = decide (t.pair d = 0#16) ∧
      t.pc = s.pc + 1#14 ∧ RegFrame s t [d, d + 1#5] 0x1F#8 := by
  refine pairResult_completes (mask := 0x1F#8) rfl fun t hpair hflags hpc hframe => ?_
  subst hpair
  rw [hflags]
  exact ⟨hr, rfl, rfl, t.pair_getLsbD_fifteen d, rfl, rfl, hpc, hframe⟩

theorem exec_adiw (d : Reg) (k : BitVec 6) (s : State) :
    exec (.adiw d k) s = pairResult d (s.pair d + k.setWidth 16)
      (wordFlags s.flags (s.pair d + k.setWidth 16) ((s.pair d).toNat + k.toNat) ((s.pair d).toInt + k.toNat)) s := by
  rw [← adiwFlags_eq_wordFlags]
  rfl

theorem exec_sbiw (d : Reg) (k : BitVec 6) (s : State) :
    exec (.sbiw d k) s = pairResult d (s.pair d - k.setWidth 16)
      (wordFlags s.flags (s.pair d - k.setWidth 16) ((s.pair d).toNat - k.toNat) ((s.pair d).toInt - k.toNat)) s := by
  rw [← sbiwFlags_eq_wordFlags]
  rfl

/-- Settles O36: both write a word with the flags of its exact results. -/
theorem wordAddAndSubtractImmediate : Obligations.WordAddAndSubtractImmediate := by
  intro s d k i x sx hrow
  simp only [List.mem_cons, List.not_mem_nil, or_false, Prod.mk.injEq] at hrow
  obtain ⟨rfl, rfl, rfl⟩ | ⟨rfl, rfl, rfl⟩ := hrow
  · rw [exec_adiw]
    exact wordResult_completes (toNat_add_immediate (s.pair d) k)
  · rw [exec_sbiw]
    exact wordResult_completes (toNat_sub_immediate (s.pair d) k)

end Sys2Proof.Machine
end

section
/-! SUPPORT. The loads and stores that leave the pointers alone (spec R221, R222, R241 to R244, R249, R256): obligations
O41 and O43. -/

namespace Sys2Proof.Machine

/-! ### The shapes -/

/-- A load above the data space faults with the address it named. -/
theorem loadAt_outside (d : Reg) {a : DataAddr} (n : Nat) (s : State) (h : 0x08FF < a.toNat) :
    loadAt d a n s = .fault (.dataAddressOutOfRange s.pc a .read) := by
  rw [loadAt, memRead_outside s h, andThen_fault]

/-- A store above the data space faults with the address it named. -/
theorem storeAt_outside {a : DataAddr} (r : Reg) (n : Nat) (s : State) (h : 0x08FF < a.toNat) :
    storeAt a r n s = .fault (.dataAddressOutOfRange s.pc a .write) := by
  rw [storeAt, memWrite_outside s _ h, andThen_fault]

/-- All that a load inside the data space does. -/
theorem loadAt_completes (d : Reg) {a : DataAddr} (n : Nat) (s : State) (h : a.toNat ≤ 0x08FF) :
    Completes (loadAt d a n s) fun t =>
      t.reg d = s.readByte a ∧ t.pc = s.pc + BitVec.ofNat 14 n ∧ RegFrame (s.afterRead a) t [d] 0#8 := by
  refine ⟨_, loadAt_inside d n s h, ?value, rfl, regFrame_setReg_advance ..⟩
  rw [State.advance_reg, State.setReg_reg_self]

/-- All that a store inside the data space does. -/
theorem storeAt_completes {a : DataAddr} (r : Reg) (n : Nat) (s : State) (h : a.toNat ≤ 0x08FF) :
    Completes (storeAt a r n s) fun t => t.pc = s.pc + BitVec.ofNat 14 n ∧ ByteStored s t a (s.reg r) [] := by
  obtain ⟨u, hu, hstored, hpc, -⟩ := memWrite_inside s (s.reg r) h
  refine ⟨_, storeAt_eq_next.2 ⟨u, hu, rfl⟩, ?pc, hstored.advance n⟩
  rw [State.advance_pc, hpc]

/-! ### The eight instructions -/

/-- Settles O41: each row of the table is `loadAt` the address it gives, past the words it is encoded in. -/
theorem loadsReadOneByte : Obligations.LoadsReadOneByte := by
  intro s d q k i a n ws hrow
  obtain ⟨m, rfl, hencode, hexec⟩ : ∃ m, n = BitVec.ofNat 14 m ∧ encode i = ws ∧ exec i s = loadAt d a m s := by
    simp only [List.mem_cons, List.not_mem_nil, or_false, Prod.mk.injEq] at hrow
    obtain ⟨rfl, rfl, rfl, rfl⟩ | ⟨rfl, rfl, rfl, rfl⟩ | ⟨rfl, rfl, rfl, rfl⟩ | ⟨rfl, rfl, rfl, rfl⟩ := hrow
    · exact ⟨2, rfl, rfl, rfl⟩
    · exact ⟨1, rfl, rfl, rfl⟩
    · exact ⟨1, rfl, rfl, rfl⟩
    · exact ⟨1, rfl, rfl, rfl⟩
  rw [hexec]
  exact ⟨hencode, loadAt_completes d m s, loadAt_outside d m s⟩

/-- Settles O43: each row of the table is `storeAt` the address it gives, past the words it is encoded in. -/
theorem storesWriteOneByte : Obligations.StoresWriteOneByte := by
  intro s r q k i a n ws hrow
  obtain ⟨m, rfl, hencode, hexec⟩ : ∃ m, n = BitVec.ofNat 14 m ∧ encode i = ws ∧ exec i s = storeAt a r m s := by
    simp only [List.mem_cons, List.not_mem_nil, or_false, Prod.mk.injEq] at hrow
    obtain ⟨rfl, rfl, rfl, rfl⟩ | ⟨rfl, rfl, rfl, rfl⟩ | ⟨rfl, rfl, rfl, rfl⟩ | ⟨rfl, rfl, rfl, rfl⟩ := hrow
    · exact ⟨2, rfl, rfl, rfl⟩
    · exact ⟨1, rfl, rfl, rfl⟩
    · exact ⟨1, rfl, rfl, rfl⟩
    · exact ⟨1, rfl, rfl, rfl⟩
  rw [hexec]
  exact ⟨hencode, storeAt_completes r m s, storeAt_outside r m s⟩

end Sys2Proof.Machine
end

section
/-! SUPPORT. The three `lpm` forms (spec R60, R61, R270 to R273): obligations O48 and O49. -/

namespace Sys2Proof.Machine

/-! ### The byte that Z addresses -/

/-- The byte at a program address is the byte of the word there that bit 0 of the address picks (R60, R270). -/
theorem byteAt_of_programWord {z w : Word} {s : State} (hz : z.toNat < 0x8000)
    (h : programWord (BitVec.ofNat 14 (z.toNat / 2)) s = .next w) :
    Memory.byteAt s.program z.toNat = some (if z.getLsbD 0 = true then highByte w else lowByte w) := by
  obtain ⟨low, high, hlow, hhigh, rfl⟩ := programWord_eq_next.1 h
  rw [toNat_progAddr_of_lt (Nat.div_lt_of_lt_mul hz)] at hlow hhigh
  have hbit : z.getLsbD 0 = decide (z.toNat % 2 = 1) := Nat.testBit_zero _
  rw [hbit]
  obtain heven | hodd := Nat.mod_two_eq_zero_or_one z.toNat
  · have haddr : 2 * (z.toNat / 2) = z.toNat := by omega
    rw [haddr] at hlow
    simp [heven, hlow, wordOfBytes]
  · have haddr : 2 * (z.toNat / 2) + 1 = z.toNat := by omega
    rw [haddr] at hhigh
    simp [hodd, hhigh, wordOfBytes]

/-- The read needs the one byte at Z, not the other byte of its word (log entry 12). -/
theorem lpmByte_inside {z : Word} {v : Byte} {s : State} (hz : z.toNat < 0x8000)
    (hv : Memory.byteAt s.program z.toNat = some v) : lpmByte z s = .next v := by
  have hword : z.toNat / 2 < Config.flashWords := Nat.div_lt_of_lt_mul hz
  rw [lpmByte, if_neg (Nat.not_le.2 hword), programByte_eq_next.2 hv]

theorem lpmByte_outside {z : Word} (s : State) (h : 0x3FFF < z.toNat / 2) :
    lpmByte z s = .fault (.progAddressOutOfRange s.pc z) := if_pos h

/-! ### The shapes -/

/-- `lpm` is `lpm r0,Z` (R271: "R0 implied"). -/
theorem exec_lpm (s : State) : exec .lpm s = execLpmZ 0#5 s := rfl

theorem exec_lpmZ (d : Reg) (s : State) : exec (.lpmZ d) s = execLpmZ d s := rfl

/-- The form with post-increment, for a register outside Z. -/
theorem exec_lpmZInc_of_ne {d : Reg} (s : State) (hl : d ≠ 30#5) (hh : d ≠ 31#5) :
    exec (.lpmZInc d) s = andThen (lpmByte (s.pair 30#5) s) fun v =>
      .next (((s.setPointer .z (s.pair 30#5 + 1#16)).setReg d v).advance 1) := by
  have howns : Pointer.z.owns d = false := Pointer.owns_eq_false.2 ⟨hl, hh⟩
  change execLpmZInc d s = _
  rw [execLpmZInc, howns, if_neg Bool.false_ne_true]
  rfl

/-- All that `lpm Rd,Z` does when the byte at Z can be read. -/
theorem execLpmZ_completes {d : Reg} {v : Byte} {s : State} (h : lpmByte (s.pair 30#5) s = .next v) :
    Completes (execLpmZ d s) fun t => t.reg d = v ∧ t.pc = s.pc + 1#14 ∧ RegFrame s t [d] 0#8 := by
  have hrun : execLpmZ d s = .next ((s.setReg d v).advance 1) := congrArg (andThen · _) h
  refine ⟨_, hrun, ?value, rfl, regFrame_setReg_advance ..⟩
  rw [State.advance_reg, State.setReg_reg_self]

/-- All that `lpm Rd,Z+` does when the byte at Z can be read. -/
theorem exec_lpmZInc_completes {d : Reg} {v : Byte} {s : State} (h : lpmByte (s.pair 30#5) s = .next v)
    (hl : d ≠ 30#5) (hh : d ≠ 31#5) :
    Completes (exec (.lpmZInc d) s) fun t =>
      t.reg d = v ∧ t.pair 30#5 = s.pair 30#5 + 1#16 ∧ t.pc = s.pc + 1#14 ∧ RegFrame s t [d, 30#5, 31#5] 0#8 := by
  rw [exec_lpmZInc_of_ne s hl hh, h, andThen_next]
  refine ⟨_, rfl, ?value, ?pointer, rfl, (regFrame_setPair s 30#5 _).trans (regFrame_setReg_advance _ d v 1)⟩
  case value => rw [State.advance_reg, State.setReg_reg_self]
  case pointer =>
    rw [State.advance_pair, State.setReg_pair_of_ne _ _ hl hh]
    exact State.setPair_pair_self ..

/-! ### The obligations -/

/-- Settles O48: all three forms begin with the one read of the byte at Z, which is the byte of its word by R60. -/
theorem lpmReadsOneProgramByte : Obligations.LpmReadsOneProgramByte := by
  intro s d v hz hv
  have hread : lpmByte (s.pair 30#5) s = .next v := lpmByte_inside hz hv
  refine ⟨?byte, ?lpm, ?lpmZ, ?lpmZInc⟩
  case byte =>
    intro w hw
    exact Option.some.inj (hv.symm.trans (byteAt_of_programWord hz hw))
  case lpm => exact exec_lpm s ▸ execLpmZ_completes hread
  case lpmZ => exact exec_lpmZ d s ▸ execLpmZ_completes hread
  case lpmZInc => exact exec_lpmZInc_completes hread

/-- Settles O49: the range fault is that of the read all three forms begin with; the two undefined words are those that
the encoder draws. -/
theorem lpmFaults : Obligations.LpmFaults := by
  intro s d
  refine ⟨fun hz => ?outside, ?r30, ?r31⟩
  case outside =>
    have hread : lpmByte (s.pair 30#5) s = .fault (.progAddressOutOfRange s.pc (s.pair 30#5)) := lpmByte_outside s hz
    have hlpmZ (r : Reg) : execLpmZ r s = .fault (.progAddressOutOfRange s.pc (s.pair 30#5)) :=
      congrArg (andThen · _) hread
    refine ⟨(exec_lpm s).trans (hlpmZ 0#5), (exec_lpmZ d s).trans (hlpmZ d), fun hl hh => ?lpmZInc⟩
    rw [exec_lpmZInc_of_ne s hl hh, hread, andThen_fault]
  case r30 => rfl
  case r31 => rfl

end Sys2Proof.Machine
end

section
/-! SUPPORT. Jumps and branches (spec R280 to R282, R285, R291, R293, R294): obligation O57. -/

namespace Sys2Proof.Machine

/-! ### The words -/

/-- The first word of `jmp` with its fixed bits 3 to 1 in one piece, as R131 draws it. -/
theorem encodeJA_jmp (k : BitVec 22) :
    encodeJA 0#1 k = 0b1001010#7 ++ k.extractLsb' 17 5 ++ 0b110#3 ++ k.extractLsb' 16 1 :=
  congrArg (· ++ k.extractLsb' 16 1) (BitVec.append_assoc (x₁ := 0b1001010#7 ++ k.extractLsb' 17 5))

/-! ### Absolute targets -/

theorem absoluteTarget_outside {n : Nat} (s : State) (h : 0x3FFF < n) :
    absoluteTarget n s = .fault (.targetOutOfRange s.pc n) :=
  if_neg (Nat.not_lt.2 h)

/-- A jump to a word address in program memory changes `pc` alone. -/
theorem jumpTo_completes {n : Nat} (s : State) (h : n ≤ 0x3FFF) :
    Completes (jumpTo n s) fun t => t.pc.toNat = n ∧ t = s.withPc t.pc := by
  have hlt : n < 0x4000 := Nat.lt_succ_of_le h
  have hrun : jumpTo n s = .next (s.withPc (BitVec.ofNat 14 n)) := by
    rw [jumpTo, absoluteTarget_eq_next.2 ⟨hlt, rfl⟩, andThen_next]
  exact ⟨_, hrun, toNat_progAddr_of_lt hlt, rfl⟩

theorem jumpTo_outside {n : Nat} (s : State) (h : 0x3FFF < n) :
    jumpTo n s = .fault (.targetOutOfRange s.pc n) := by
  rw [jumpTo, absoluteTarget_outside s h, andThen_fault]

/-! ### Relative targets -/

/-- A branch changes `pc` alone, on the condition that its flag stands for. -/
theorem branchIf_completes {c : Bool} {p : Prop} [Decidable p] (hc : c = true ↔ p) (k : BitVec 7) (s : State) :
    Completes (branchIf c k s) fun t =>
      (t.pc.toNat : Int) = (if p then (s.pc.toNat + 1 + k.toInt) % 0x4000 else (s.pc.toNat + 1) % 0x4000) ∧
      t = s.withPc t.pc := by
  refine ⟨_, rfl, ?target, ?frame⟩
  case target =>
    rw [branchIf_pc rfl, Int.add_right_comm]
    simp only [hc]
    split <;> rfl
  case frame => cases c <;> rfl

/-! ### The instructions -/

theorem exec_rjmp (k : BitVec 12) (s : State) : exec (.rjmp k) s = .next (s.withPc (relativeTarget k s)) := rfl

theorem exec_brbs (b : BitVec 3) (k : BitVec 7) (s : State) :
    exec (.brbs b k) s = branchIf (s.sreg.getLsbD b.toNat) k s := rfl

theorem exec_brbc (b : BitVec 3) (k : BitVec 7) (s : State) :
    exec (.brbc b k) s = branchIf (!s.sreg.getLsbD b.toNat) k s := rfl

theorem exec_jmp (k : BitVec 22) (s : State) : exec (.jmp k) s = jumpTo k.toNat s := rfl

/-- `ijmp` jumps to Z, the pair of r31 and r30. -/
theorem exec_ijmp (s : State) : exec .ijmp s = jumpTo (s.reg 31#5 ++ s.reg 30#5 : Word).toNat s := rfl

/-- Settles O57: the words are those the encoder draws, and each of the five is one of the three shapes, a relative
target, a branch or an absolute target. -/
theorem jumpsAndBranchesGoToTheirTarget : Obligations.JumpsAndBranchesGoToTheirTarget := by
  intro s j k b a z
  refine ⟨rfl, rfl, rfl, rfl, ?jmpWords, ?rjmp, ?brbs, ?brbc, ?jmp, ?jmpFault, ?ijmp, ?ijmpFault⟩
  case jmpWords => rw [encode, encodeJA_jmp]
  case rjmp =>
    refine ⟨_, exec_rjmp j s, ?_, rfl⟩
    rw [State.withPc_pc, relativeTarget_toNat, Int.add_right_comm]
  case brbs => exact exec_brbs b k s ▸ branchIf_completes Iff.rfl k s
  case brbc => exact exec_brbc b k s ▸ branchIf_completes (Bool.not_eq_true' _).to_iff k s
  case jmp => exact exec_jmp a s ▸ jumpTo_completes s
  case jmpFault => exact exec_jmp a s ▸ jumpTo_outside s
  case ijmp => exact exec_ijmp s ▸ jumpTo_completes s
  case ijmpFault => exact exec_ijmp s ▸ jumpTo_outside s

end Sys2Proof.Machine
end

section
/-! SUPPORT. Calls, returns and interrupt entry on any stack (spec R81, R283, R287, R288, R290, R292, R330): obligations
O51, O53 and O54. -/

namespace Sys2Proof.Machine

/-! ### The three calls -/

/-- What the three calls do once their target is known to be in program memory: push the return address, then go there
(R283, R288, R292). -/
def pushAndGo (ra target : ProgAddr) (s : State) : Result State :=
  andThen (pushReturn ra s) fun u => .next (u.withPc target)

theorem callTo_inside {k : Nat} (n : Nat) (s : State) (h : k < 0x4000) :
    callTo k n s = pushAndGo (s.pc + BitVec.ofNat 14 n) (BitVec.ofNat 14 k) s := by
  rw [callTo, absoluteTarget_eq_next.2 ⟨h, rfl⟩, andThen_next, pushAndGo]

theorem exec_call_inside {k : BitVec 22} (s : State) (h : k.toNat < 0x4000) :
    exec (.call k) s = pushAndGo (s.pc + 2#14) (BitVec.ofNat 14 k.toNat) s := callTo_inside 2 s h

theorem exec_icall_inside {s : State} (h : (s.pair 30#5).toNat < 0x4000) :
    exec .icall s = pushAndGo (s.pc + 1#14) (BitVec.ofNat 14 (s.pair 30#5).toNat) s := callTo_inside 1 s h

theorem exec_rcall (j : BitVec 12) (s : State) :
    exec (.rcall j) s = pushAndGo (s.pc + 1#14) (s.pc + 1#14 + j.signExtend 14) s := rfl

theorem pushAndGo_completes {ra : ProgAddr} (target : ProgAddr) {s : State} (h : s.canPush ra) :
    Completes (pushAndGo ra target s) fun t => t.pc = target ∧ ReturnPushed s t ra := by
  obtain ⟨u, hu, -, hpushed⟩ := pushReturn_inside s ra h
  refine ⟨u.withPc target, ?_, rfl, hpushed.withPc target⟩
  rw [pushAndGo, hu, andThen_next]

/-- Settles O51: with a target in program memory each call is `pushAndGo`. -/
theorem callsPushTheReturnAddress : Obligations.CallsPushTheReturnAddress := by
  intro s k j i n target hcall hpush
  have hexec : exec i s = pushAndGo (s.pc + n) target s := by
    obtain ⟨rfl, rfl, hk, rfl⟩ | ⟨rfl, rfl, hz, rfl⟩ | ⟨rfl, rfl, rfl⟩ := hcall
    · exact exec_call_inside s hk
    · exact exec_icall_inside hz
    · exact exec_rcall j s
  exact hexec ▸ pushAndGo_completes target hpush

/-! ### The two returns -/

theorem exec_ret (s : State) : exec .ret s = popReturn s := rfl

theorem exec_reti (s : State) : exec .reti s = interruptReturn s := rfl

/-- Moving `pc` changes nothing else. -/
theorem regFrame_withPc (s : State) (a : ProgAddr) : RegFrame s (s.withPc a) [] 0#8 :=
  ⟨fun _ _ => rfl, fun _ _ => rfl, rfl, fun _ => rfl, fun _ => rfl, rfl, rfl, rfl, rfl⟩

/-- Setting I changes bit 7 of SREG alone, and inhibits interrupts if I was 0 (R43, R332). -/
theorem regFrame_setI (s : State) (a : ProgAddr) :
    RegFrame { s with irqInhibit := s.irqInhibit || !s.sreg.getLsbD 7 }
      ((s.withPc a).writeSreg (setBit s.sreg 7#3 true)) [] 0x80#8 where
  regs _ _ := rfl
  flags b hb := by
    obtain hlt | hge := Nat.lt_or_ge b 8
    · have hne : b ≠ 7 := by
        rintro rfl
        cases hb
      exact (setBit_getLsbD s.sreg 7#3 true b hlt).trans (if_neg hne)
    · exact (BitVec.getLsbD_of_ge _ b hge).trans (BitVec.getLsbD_of_ge _ b hge).symm
  sp := rfl
  sram _ := rfl
  program _ := rfl
  irqInhibit := by
    rw [State.writeSreg_irqInhibit, setBit_getLsbD _ _ _ _ (by decide)]
    exact congrArg (s.irqInhibit || ·) (Bool.and_true _)
  asleep := rfl
  irqAnswers := rfl
  events := rfl

/-- Settles O53: both returns are the two pops and the jump; `reti` then sets I. -/
theorem returnsPopTheReturnAddress : Obligations.ReturnsPopTheReturnAddress := by
  intro s hhigh hlow htarget
  have hret : exec .ret s = .next _ := popReturn_inside hhigh hlow htarget
  have hreti : exec .reti s = .next _ := interruptReturn_eq_next.2 ⟨_, hret, rfl⟩
  refine ⟨⟨_, hret, toNat_progAddr_of_lt htarget, s.afterPop_sp_next, regFrame_withPc ..⟩,
    ⟨_, hreti, toNat_progAddr_of_lt htarget, s.afterPop_sp_next, ?setsI, regFrame_setI ..⟩⟩
  case setsI => exact setBit_getLsbD _ 7#3 true 7 (by decide)

/-! ### Faults -/

theorem pushAndGo_of_fault {ra target : ProgAddr} {s : State} {r : Fault} (h : pushReturn ra s = .fault r) :
    pushAndGo ra target s = .fault r := by
  rw [pushAndGo, h, andThen_fault]

theorem interruptEntry_of_fault {v : IrqVector} {s : State} {r : Fault} (h : pushReturn s.pc s = .fault r) :
    interruptEntry v s = .fault r := by
  rw [interruptEntry, h, andThen_fault]

theorem exec_return_of_fault {i : Instr} (hi : i ∈ [Instr.ret, .reti]) {s : State} {r : Fault}
    (h : popReturn s = .fault r) : exec i s = .fault r := by
  simp only [List.mem_cons, List.not_mem_nil, or_false] at hi
  obtain rfl | rfl := hi
  · rw [exec_ret, h]
  · rw [exec_reti, interruptReturn, h, andThen_fault]

theorem popReturn_high_outside {s : State} (h : 0x08FF < (s.sp + 1#16).toNat) :
    popReturn s = .fault (.dataAddressOutOfRange s.pc (s.sp + 1#16) .read) := by
  rw [popReturn, popByte_outside s h, andThen_fault]

theorem popReturn_low_outside {s : State} (h1 : (s.sp + 1#16).toNat ≤ 0x08FF) (h2 : 0x08FF < (s.sp + 2#16).toNat) :
    popReturn s = .fault (.dataAddressOutOfRange s.pc (s.sp + 2#16) .read) := by
  rw [← s.afterPop_sp_next] at h2 ⊢
  rw [popReturn, popByte_inside s h1, andThen_next, popByte_outside _ h2, andThen_fault, State.afterPop_pc]

/-- Settles O54: a return faults as its pops do, a call and an interrupt entry as their pushes do. -/
theorem stackOutsideTheDataSpaceFaults : Obligations.StackOutsideTheDataSpaceFaults := by
  intro s k j
  refine ⟨?high, ?low, ?call, ?entry⟩
  case high => exact fun i hi h => exec_return_of_fault hi (popReturn_high_outside h)
  case low => exact fun i hi h1 h2 => exec_return_of_fault hi (popReturn_low_outside h1 h2)
  case call =>
    intro i n hcall
    obtain ⟨target, hexec⟩ : ∃ target, exec i s = pushAndGo (s.pc + n) target s := by
      obtain ⟨rfl, rfl, hk⟩ | ⟨rfl, rfl, hz⟩ | ⟨rfl, rfl⟩ := hcall
      · exact ⟨_, exec_call_inside s hk⟩
      · exact ⟨_, exec_icall_inside hz⟩
      · exact ⟨_, exec_rcall j s⟩
    rw [hexec]
    exact ⟨fun h => pushAndGo_of_fault (pushReturn_low_outside _ h),
      fun h1 h2 => pushAndGo_of_fault (pushReturn_high_outside _ h1 h2)⟩
  case entry =>
    intro v hv
    rw [step_accepted hv]
    exact ⟨fun h => interruptEntry_of_fault (pushReturn_low_outside _ h),
      fun h1 h2 => interruptEntry_of_fault (pushReturn_high_outside _ h1 h2)⟩

end Sys2Proof.Machine
end

section
/-! SUPPORT. A return address on a stack in SRAM, pushed and taken back (spec R81, R283, R287, R288, R292, R330):
obligations O52 and O55. -/

namespace Sys2Proof.Machine

/-! ### The two bytes of a return address -/

theorem toNat_raLow (ra : ProgAddr) : (raLow ra).toNat = ra.toNat % 256 := by
  simp [raLow, lowByte]

theorem toNat_raHigh (ra : ProgAddr) : (raHigh ra).toNat = ra.toNat / 256 := by
  have hlt : ra.toNat / 256 < 256 := Nat.div_lt_of_lt_mul (Nat.lt_trans ra.isLt (by decide))
  rw [raHigh, highByte, BitVec.extractLsb'_toNat, BitVec.toNat_setWidth_of_le (by decide), Nat.shiftRight_eq_div_pow]
  exact Nat.mod_eq_of_lt hlt

theorem toNat_pairOf_ra (ra : ProgAddr) : (pairOf (raHigh ra) (raLow ra)).toNat = ra.toNat := by
  rw [toNat_pairOf, toNat_raHigh, toNat_raLow, Nat.div_add_mod]

/-! ### Pushing it -/

/-- A stack pointer of at least 0x0101 inside the data space has room in SRAM for both bytes. -/
theorem sram_of_sp {sp : Word} (hlo : 0x0101 ≤ sp.toNat) (hhi : sp.toNat ≤ 0x08FF) :
    dataPlace sp = .sram ∧ dataPlace (sp - 1#16) = .sram := by
  simp only [dataPlace_eq_sram]
  bv_omega

theorem pushByte_of_sram {s : State} (v : Byte) (h : dataPlace s.sp = .sram) :
    pushByte v s = .next ((s.storeSram s.sp.toNat v).withSp (s.sp - 1#16)) :=
  pushByte_eq_next.2 ⟨_, memWrite_of_sram v s h, rfl⟩

/-- The state after the pushes of return address `ra` on a stack in SRAM. -/
def State.withReturn (s : State) (ra : ProgAddr) : State :=
  ((s.storeSram s.sp.toNat (raLow ra)).storeSram (s.sp - 1#16).toNat (raHigh ra)).withSp (s.sp - 2#16)

theorem pushReturn_of_sram {s : State} (ra : ProgAddr) (hlo : 0x0101 ≤ s.sp.toNat) (hhi : s.sp.toNat ≤ 0x08FF) :
    pushReturn ra s = .next (s.withReturn ra) := by
  obtain ⟨hlow, hhigh⟩ := sram_of_sp hlo hhi
  have hsecond := pushByte_of_sram (s := (s.storeSram s.sp.toNat (raLow ra)).withSp (s.sp - 1#16)) (raHigh ra) hhigh
  have hsp : s.sp - 1#16 - 1#16 = s.sp - 2#16 := by bv_omega
  rw [State.withSp_sp, hsp] at hsecond
  exact pushReturn_eq_next.2 ⟨_, pushByte_of_sram _ hlow, hsecond⟩

theorem eq_withReturn_of_pushReturn {ra : ProgAddr} {s t : State} (h : pushReturn ra s = .next t)
    (hlo : 0x0101 ≤ s.sp.toNat) (hhi : s.sp.toNat ≤ 0x08FF) : t = s.withReturn ra :=
  Host.Outcome.next.inj (h.symm.trans (pushReturn_of_sram ra hlo hhi))

@[simp] theorem State.withReturn_sp (s : State) (ra : ProgAddr) : (s.withReturn ra).sp = s.sp - 2#16 := rfl

theorem State.withReturn_sramByte (s : State) (ra : ProgAddr) (a : Nat) :
    (s.withReturn ra).sramByte a =
      if a = (s.sp - 1#16).toNat then raHigh ra else if a = s.sp.toNat then raLow ra else s.sramByte a := by
  rw [State.withReturn, State.withSp_sramByte, State.storeSram_sramByte, State.storeSram_sramByte]

/-- The layout of D9: low byte at the old SP, high byte one below, SP two lower, all else as it was. -/
theorem State.withReturn_layout {s : State} (ra : ProgAddr) (hlo : 0x0101 ≤ s.sp.toNat) :
    ((s.withReturn ra).sramByte s.sp.toNat).toNat = ra.toNat % 256 ∧
    ((s.withReturn ra).sramByte (s.sp.toNat - 1)).toNat = ra.toNat / 256 ∧
    (s.withReturn ra).sp.toNat = s.sp.toNat - 2 ∧ (∀ q, (s.withReturn ra).reg q = s.reg q) ∧
    ∀ a, a ≠ s.sp.toNat → a ≠ s.sp.toNat - 1 → (s.withReturn ra).sramByte a = s.sramByte a := by
  have hbelow : (s.sp - 1#16).toNat = s.sp.toNat - 1 := by bv_omega
  have hbyte := s.withReturn_sramByte ra
  rw [hbelow] at hbyte
  refine ⟨?low, ?high, ?sp, fun _ => rfl, ?others⟩
  case low => rw [hbyte, if_neg (by omega), if_pos rfl, toNat_raLow]
  case high => rw [hbyte, if_pos rfl, toNat_raHigh]
  case sp =>
    rw [State.withReturn_sp]
    bv_omega
  case others =>
    intro a hlow hhigh
    rw [hbyte, if_neg hhigh, if_neg hlow]

/-! ### Calls and interrupt entry -/

/-- An absolute call that completes is `pushAndGo` to its target. -/
theorem callTo_eq_pushAndGo {k n : Nat} {s t : State} (h : callTo k n s = .next t) :
    ∃ target, pushAndGo (s.pc + BitVec.ofNat 14 n) target s = .next t := by
  obtain ⟨target, -, h⟩ := andThen_eq_next.1 h
  exact ⟨target, h⟩

theorem eq_withReturn_of_pushAndGo {ra target : ProgAddr} {s t : State} (h : pushAndGo ra target s = .next t)
    (hlo : 0x0101 ≤ s.sp.toNat) (hhi : s.sp.toNat ≤ 0x08FF) : t = (s.withReturn ra).withPc target := by
  obtain ⟨u, hu, h⟩ := andThen_eq_next.1 h
  rw [← eq_withReturn_of_pushReturn hu hlo hhi]
  exact (Host.Outcome.next.inj h).symm

/-- Settles O52: a call and an interrupt entry both leave `State.withReturn` but for fields that the layout does not
speak of; the entry clears I and is recorded. -/
theorem aReturnAddressOnTheStack : Obligations.AReturnAddressOnTheStack := by
  intro s t ra hlo hhi pushed
  refine ⟨?call, ?entry⟩
  case call =>
    intro i hi hexec
    obtain ⟨target, hgo⟩ : ∃ target, pushAndGo ra target s = .next t := by
      obtain ⟨⟨k, rfl⟩, rfl⟩ | ⟨rfl | ⟨j, rfl⟩, rfl⟩ := hi
      · exact callTo_eq_pushAndGo (n := 2) hexec
      · exact callTo_eq_pushAndGo (n := 1) hexec
      · exact ⟨_, hexec⟩
    cases eq_withReturn_of_pushAndGo hgo hlo hhi
    exact ⟨State.withReturn_layout ra hlo, rfl, rfl⟩
  case entry =>
    rintro v hv hstep rfl
    rw [step_accepted hv] at hstep
    obtain ⟨u, hu, rfl⟩ := interruptEntry_eq_next.1 hstep
    cases eq_withReturn_of_pushReturn hu hlo hhi
    refine ⟨State.withReturn_layout s.pc hlo, ?clearsI, ?otherFlags, rfl⟩
    case clearsI => exact setBit_getLsbD s.sreg 7#3 false 7 (by decide)
    case otherFlags =>
      intro b hb
      exact (setBit_getLsbD s.sreg 7#3 false b (Nat.lt_succ_of_lt hb)).trans (if_neg (Nat.ne_of_lt hb))

/-! ### Taking it back -/

theorem State.poppedByte_of_sram {s : State} (h : dataPlace (s.sp + 1#16) = .sram) :
    s.poppedByte = s.sramByte (s.sp + 1#16).toNat := by
  rw [s.poppedByte_eq_readByte (not_mem_sp_of_sram h), State.readByte_of_sram _ h]

/-- A pop from SRAM moves SP alone: no device observes it. -/
theorem State.afterPop_of_sram {s : State} (h : dataPlace (s.sp + 1#16) = .sram) :
    s.afterPop = s.withSp (s.sp + 1#16) := by
  rw [State.afterPop, State.afterRead, State.eventsAfterRead, h]
  rfl

/-- A return finds the address whose two bytes lie above SP. -/
theorem popReturn_of_sram {s : State} {ra : ProgAddr} (hhigh : dataPlace (s.sp + 1#16) = .sram)
    (hlow : dataPlace (s.sp + 2#16) = .sram) (hhighByte : s.sramByte (s.sp + 1#16).toNat = raHigh ra)
    (hlowByte : s.sramByte (s.sp + 2#16).toNat = raLow ra) :
    popReturn s = .next ((s.withSp (s.sp + 2#16)).withPc ra) := by
  have hlow' : dataPlace (s.afterPop.sp + 1#16) = .sram := s.afterPop_sp_next ▸ hlow
  have hword : s.poppedWord.toNat = ra.toNat := by
    rw [State.poppedWord, State.poppedByte_of_sram hhigh, State.poppedByte_of_sram hlow', s.afterPop_sp_next,
      State.afterPop_sramByte, hhighByte, hlowByte, toNat_pairOf_ra]
  rw [popReturn_inside (dataPlace_eq_sram.1 hhigh).2 (dataPlace_eq_sram.1 hlow).2 (hword ▸ ra.isLt), hword,
    State.afterPop_of_sram hlow', s.afterPop_sp_next, State.afterPop_of_sram hhigh, BitVec.ofNat_toNat,
    BitVec.setWidth_eq]
  rfl

/-- Whatever state has the stack of `s.withReturn ra`, a return from it goes to `ra` with the SP of `s`. -/
theorem popReturn_of_withReturn {s t : State} {ra : ProgAddr} (hlo : 0x0101 ≤ s.sp.toNat) (hhi : s.sp.toNat ≤ 0x08FF)
    (hsp : t.sp = s.sp - 2#16) (hsram : ∀ a, t.sramByte a = (s.withReturn ra).sramByte a) :
    popReturn t = .next ((t.withSp s.sp).withPc ra) := by
  obtain ⟨hlow, hhigh⟩ := sram_of_sp hlo hhi
  have hfirst : t.sp + 1#16 = s.sp - 1#16 := by bv_omega
  have hsecond : t.sp + 2#16 = s.sp := by bv_omega
  have hne : s.sp.toNat ≠ (s.sp - 1#16).toNat := by bv_omega
  rw [← hsecond]
  refine popReturn_of_sram (hfirst ▸ hhigh) (hsecond ▸ hlow) ?highByte ?lowByte
  case highByte => rw [hfirst, hsram, State.withReturn_sramByte, if_pos rfl]
  case lowByte => rw [hsecond, hsram, State.withReturn_sramByte, if_neg hne, if_pos rfl]

/-- Settles O55: the return finds the stack as the call left it. -/
theorem callThenRetComesBack : Obligations.CallThenRetComesBack := by
  intro s t k hlo hhi hcall
  obtain ⟨target, hgo⟩ := callTo_eq_pushAndGo (n := 2) hcall
  cases eq_withReturn_of_pushAndGo hgo hlo hhi
  have hret := popReturn_of_withReturn (t := (s.withReturn (s.pc + 2#14)).withPc target) hlo hhi rfl fun _ => rfl
  exact ⟨_, hret, rfl, rfl, rfl, rfl, fun _ => rfl⟩

end Sys2Proof.Machine
end

section
/-! SUPPORT. One step: the acceptance test, the fetch, and the three things a step can be (spec R13, R136, R312, R326 to
R330): obligations O10, O11, O12 and O13. -/

namespace Sys2Proof.Machine

/-! ### The acceptance test -/

theorem acceptanceTest_of_mayAccept {s : State} (h : s.mayAccept = true) : acceptanceTest s = s.poll := if_pos h

theorem acceptanceTest_of_not_mayAccept {s : State} (h : s.mayAccept = false) : acceptanceTest s = (none, s) :=
  if_neg (Bool.eq_false_iff.1 h)

theorem not_mayAccept_of_inhibited {s : State} (h : s.irqInhibit = true) : s.mayAccept = false := by
  rw [State.mayAccept, h]
  exact Bool.and_false _

theorem not_mayAccept_of_disabled {s : State} (h : s.sreg.getLsbD 7 = false) : s.mayAccept = false := by
  rw [State.mayAccept, h, Bool.false_and]

/-- A request is accepted only with I = 1 and nothing inhibiting it (R327). -/
theorem mayAccept_of_accepted {s : State} {v : IrqVector} (h : (acceptanceTest s).1 = some v) : s.mayAccept = true := by
  cases hmay : s.mayAccept with
  | true => rfl
  | false =>
    rw [acceptanceTest_of_not_mayAccept hmay] at h
    cases h

theorem mayAccept_iff {s : State} : s.mayAccept = true ↔ s.sreg.getLsbD 7 = true ∧ s.irqInhibit = false := by
  rw [State.mayAccept, Bool.and_eq_true, Bool.not_eq_true']

/-- A poll takes the first of the answers to come. -/
theorem State.poll_snd (s : State) : s.poll.2 = { s with irqAnswers := s.irqAnswers.tail } := by
  unfold State.poll
  split
  next h => rw [h, List.tail_nil, ← h]
  next h => rw [h, List.tail_cons]

/-- The source, if it is polled, has one answer less (R326, R327). -/
theorem acceptanceTest_snd_eq (s : State) :
    (acceptanceTest s).2 = { s with
      irqAnswers := if s.sreg.getLsbD 7 = true ∧ s.irqInhibit = false then s.irqAnswers.tail else s.irqAnswers } := by
  simp only [← mayAccept_iff]
  cases hmay : s.mayAccept with
  | false => rw [acceptanceTest_of_not_mayAccept hmay, if_neg Bool.false_ne_true]
  | true =>
    rw [acceptanceTest_of_mayAccept hmay, if_pos rfl, State.poll_snd]

/-! ### What a step is -/

/-- A step that accepts no interrupt: nothing in sleep, else the fetch and the instruction (R312, R327). -/
theorem step_not_accepted {s : State} (h : (acceptanceTest s).1 = none) :
    step s = if s.asleep then .next (acceptanceTest s).2
      else andThen (fetch (acceptanceTest s).2) fun i => exec i (acceptanceTest s).2.beginInstr := by
  have hasleep : (acceptanceTest s).2.asleep = s.asleep := by rw [acceptanceTest_snd]
  rw [step, show acceptanceTest s = (none, (acceptanceTest s).2) from Prod.ext h rfl, ← hasleep]

theorem step_asleep {s : State} (h : (acceptanceTest s).1 = none) (hs : s.asleep = true) :
    step s = .next (acceptanceTest s).2 := by
  rw [step_not_accepted h, if_pos hs]

theorem step_awake {s : State} (h : (acceptanceTest s).1 = none) (hs : s.asleep = false) :
    step s = andThen (fetch (acceptanceTest s).2) fun i => exec i (acceptanceTest s).2.beginInstr := by
  rw [step_not_accepted h, if_neg (Bool.eq_false_iff.1 hs)]

/-- A step that completes is an interrupt entry, a step of a sleeping CPU, or an instruction. -/
theorem step_eq_next {s t : State} (h : step s = .next t) :
    (∃ v, (acceptanceTest s).1 = some v ∧ interruptEntry v
      { s with irqAnswers := (acceptanceTest s).2.irqAnswers, events := .irqAck v :: s.events } = .next t) ∨
    (s.asleep = true ∧ t = { s with irqAnswers := (acceptanceTest s).2.irqAnswers }) ∨
    (s.asleep = false ∧ ∃ i, fetch (acceptanceTest s).2 = .next i ∧
      exec i { s with irqInhibit := false, irqAnswers := (acceptanceTest s).2.irqAnswers } = .next t) := by
  cases hacc : (acceptanceTest s).1 with
  | some v => exact .inl ⟨v, rfl, (step_accepted hacc).symm.trans h⟩
  | none =>
    obtain hs | hs := Bool.eq_false_or_eq_true s.asleep
    · rw [step_asleep hacc hs, acceptanceTest_snd] at h
      exact .inr (.inl ⟨hs, (Host.Outcome.next.inj h).symm⟩)
    · rw [step_awake hacc hs] at h
      obtain ⟨i, hi, h⟩ := andThen_eq_next.1 h
      rw [acceptanceTest_snd] at h
      exact .inr (.inr ⟨hs, i, hi, h⟩)

/-! ### The fetch -/

/-- Program words are read from program memory alone. -/
theorem programWord_congr {s t : State} (h : t.program = s.program) (a : ProgAddr) :
    programWord a t = programWord a s := by
  simp only [programWord, programByte, h]

theorem fetch_one_word {s : State} {w : Word} (hw : programWord s.pc s = .next w) (hlen : ilen w ≠ 2) :
    fetch s = decoded w 0#16 s := by
  rw [fetch, hw, andThen_next, if_neg hlen]

theorem fetch_two_words {s : State} {w w2 : Word} (hw : programWord s.pc s = .next w) (hlen : ilen w = 2)
    (hw2 : programWord (s.pc + 1#14) s = .next w2) : fetch s = decoded w w2 s := by
  rw [fetch, hw, andThen_next, if_pos hlen, hw2, andThen_next]

theorem decoded_ok {w w2 : Word} {i : Instr} (s : State) (h : decodeWords w w2 = .ok i) :
    decoded w w2 s = .next i := by
  rw [decoded, h]

theorem decoded_error {w w2 : Word} {e : DecodeError} (s : State) (h : decodeWords w w2 = .error e) :
    decoded w w2 s = .fault (.illegalOpcode s.pc w) := by
  rw [decoded, h]

/-- Bytes that are one instruction and nothing more are its one word or its two (R62, R101). -/
theorem decodeBytes_eq_ok_nil {bs : List Byte} {i : Instr} (h : decodeBytes bs = .ok (i, [])) :
    (∃ b0 b1, bs = [b0, b1] ∧ ilen (wordOfBytes b0 b1) ≠ 2 ∧ decodeWords (wordOfBytes b0 b1) 0#16 = .ok i) ∨
    (∃ b0 b1 c0 c1, bs = [b0, b1, c0, c1] ∧ ilen (wordOfBytes b0 b1) = 2 ∧
      decodeWords (wordOfBytes b0 b1) (wordOfBytes c0 c1) = .ok i) := by
  have map_eq {d : Except DecodeError Instr} {rest : List Byte} (h : d.map (·, rest) = .ok (i, [])) :
      d = .ok i ∧ rest = [] := by
    cases d with
    | error e => cases h
    | ok j =>
      cases h
      exact ⟨rfl, rfl⟩
  match bs with
  | [] | [_] => cases h
  | b0 :: b1 :: rest =>
    by_cases hlen : ilen (wordOfBytes b0 b1) = 2
    · match rest with
      | [] | [_] => simp [decodeBytes, hlen] at h
      | c0 :: c1 :: rest' =>
        simp only [decodeBytes, hlen, if_true] at h
        obtain ⟨hdec, rfl⟩ := map_eq h
        exact .inr ⟨b0, b1, c0, c1, rfl, hlen, hdec⟩
    · simp only [decodeBytes, hlen, if_false] at h
      obtain ⟨hdec, rfl⟩ := map_eq h
      exact .inl ⟨b0, b1, rfl, hlen, hdec⟩

/-- The bytes at `pc` are the instruction that is fetched; the second word is read across the end of program memory
(R65). -/
theorem fetch_of_bytes {s : State} {bs : List Byte} {i : Instr} (hdec : decodeBytes bs = .ok (i, []))
    (hbs : ∀ (n : Nat) (h : n < bs.length),
      Memory.byteAt s.program ((2 * s.pc.toNat + n) % 0x8000) = some bs[n]) : fetch s = .next i := by
  have hpc := s.pc.isLt
  have hfirst (h0 : 0 < bs.length) (h1 : 1 < bs.length) :
      programWord s.pc s = .next (wordOfBytes bs[0] bs[1]) := by
    have e0 : (2 * s.pc.toNat + 0) % 0x8000 = 2 * s.pc.toNat := by omega
    have e1 : (2 * s.pc.toNat + 1) % 0x8000 = 2 * s.pc.toNat + 1 := by omega
    exact programWord_eq_next.2 ⟨_, _, e0 ▸ hbs 0 h0, e1 ▸ hbs 1 h1, rfl⟩
  have hsecond (h2 : 2 < bs.length) (h3 : 3 < bs.length) :
      programWord (s.pc + 1#14) s = .next (wordOfBytes bs[2] bs[3]) := by
    have e2 : (2 * s.pc.toNat + 2) % 0x8000 = 2 * (s.pc + 1#14).toNat := by bv_omega
    have e3 : (2 * s.pc.toNat + 3) % 0x8000 = 2 * (s.pc + 1#14).toNat + 1 := by bv_omega
    exact programWord_eq_next.2 ⟨_, _, e2 ▸ hbs 2 h2, e3 ▸ hbs 3 h3, rfl⟩
  obtain ⟨b0, b1, rfl, hlen, hdec⟩ | ⟨b0, b1, c0, c1, rfl, hlen, hdec⟩ := decodeBytes_eq_ok_nil hdec
  · rw [fetch_one_word (hfirst (by simp) (by simp)) hlen]
    exact decoded_ok s hdec
  · rw [fetch_two_words (hfirst (by simp) (by simp)) hlen (hsecond (by simp) (by simp))]
    exact decoded_ok s hdec

/-- Settles O10: the poll changes neither `pc` nor program memory, so the fetch finds the bytes of `s`. -/
theorem stepRunsTheDecodedInstruction : Obligations.StepRunsTheDecodedInstruction := by
  intro s i bs hdec hbs hs hacc
  have hfetch := fetch_of_bytes (s := (acceptanceTest s).2) hdec (by rw [acceptanceTest_snd]; exact hbs)
  rw [step_awake hacc hs, hfetch, andThen_next, acceptanceTest_snd_eq]
  rfl

/-- Settles O13: what the step leaves is what the poll leaves. -/
theorem aSleepingCpuExecutesNothing : Obligations.ASleepingCpuExecutesNothing := by
  intro s hs hacc
  rw [step_asleep hacc hs, acceptanceTest_snd_eq]

/-! ### The vectors -/

/-- The vectors in the order of their numbers, from 2 on (R329). -/
def irqVectors : List IrqVector :=
  [.int0, .int1, .pcint0, .pcint1, .pcint2, .wdt, .timer2Compa, .timer2Compb, .timer2Ovf, .timer1Capt, .timer1Compa,
    .timer1Compb, .timer1Ovf, .timer0Compa, .timer0Compb, .timer0Ovf, .spiStc, .usartRx, .usartUdre, .usartTx, .adc,
    .eeReady, .analogComp, .twi, .spmReady]

theorem map_number_irqVectors : irqVectors.map IrqVector.number = List.range' 2 25 := rfl

theorem irqVectors_getElem?_number (v : IrqVector) : irqVectors[IrqVector.number v - 2]? = some v := by
  cases v <;> rfl

theorem mem_irqVectors (v : IrqVector) : v ∈ irqVectors := List.mem_of_getElem? (irqVectors_getElem?_number v)

theorem number_mem_range (v : IrqVector) : 2 ≤ IrqVector.number v ∧ IrqVector.number v ≤ 26 := by
  have hmem : IrqVector.number v ∈ List.range' 2 25 := map_number_irqVectors ▸ List.mem_map_of_mem (mem_irqVectors v)
  rw [List.mem_range'_1] at hmem
  omega

theorem vectorAddr_toNat (v : IrqVector) : (vectorAddr v).toNat = 2 * (IrqVector.number v - 1) := by
  have := number_mem_range v
  exact toNat_progAddr_of_lt (by omega)

/-- Settles O12: the numbers of the 25 vectors in order are 2 to 26. -/
theorem vectorsStandTwoWordsApart : Obligations.VectorsStandTwoWordsApart := by
  refine ⟨fun v => ⟨(number_mem_range v).1, (number_mem_range v).2, vectorAddr_toNat v⟩, ?injective, ?surjective⟩
  case injective =>
    intro v v' h
    refine Option.some.inj ?_
    rw [← irqVectors_getElem?_number v, h, irqVectors_getElem?_number]
  case surjective =>
    intro n hlo hhi
    have hn : n ∈ irqVectors.map IrqVector.number := by
      rw [map_number_irqVectors, List.mem_range'_1]
      omega
    obtain ⟨v, -, hv⟩ := List.mem_map.1 hn
    exact ⟨v, hv⟩

/-! ### The entry of an accepted interrupt -/

/-- A bit outside the one that is set to a value is as it was. -/
theorem setBit_getLsbD_of_not_mask {v : Byte} {b : BitVec 3} {x : Bool} {i : Nat}
    (h : (1#8 <<< b.toNat).getLsbD i = false) : (setBit v b x).getLsbD i = v.getLsbD i := by
  cases x
  case true => rw [setBit, if_pos rfl, BitVec.getLsbD_or, h, Bool.or_false]
  case false =>
    rw [setBit, if_neg Bool.false_ne_true, BitVec.getLsbD_and, BitVec.getLsbD_not, h]
    obtain hlt | hge := Nat.lt_or_ge i 8
    · simp [hlt]
    · simp [BitVec.getLsbD_of_ge v i hge]

theorem regFrame_clearI (u : State) (a : ProgAddr) :
    RegFrame { u with asleep := false } { u with sreg := setBit u.sreg 7#3 false, asleep := false, pc := a } [] 0x80#8 :=
  ⟨fun _ _ => rfl, fun _ hb => setBit_getLsbD_of_not_mask (b := 7#3) hb, rfl, fun _ => rfl, fun _ => rfl, rfl, rfl, rfl,
    rfl⟩

/-- Settles O11: the first answer is accepted, and the entry pushes `pc` in the state in which the source has answered
and been told. -/
theorem stepEntersAnAcceptedInterrupt : Obligations.StepEntersAnAcceptedInterrupt := by
  intro s v rest hI hinh hans hpush
  have htest : acceptanceTest s = (some v, { s with irqAnswers := rest }) := by
    rw [acceptanceTest_of_mayAccept (mayAccept_iff.2 ⟨hI, hinh⟩), State.poll, hans]
  have hstep := step_accepted (congrArg Prod.fst htest)
  rw [htest] at hstep
  obtain ⟨u, hu, -, hpushed⟩ :=
    pushReturn_inside { s with irqAnswers := rest, events := .irqAck v :: s.events } s.pc hpush
  refine ⟨_, hstep.trans (interruptEntry_eq_next.2 ⟨u, hu, rfl⟩), u, hpushed, vectorAddr_toNat v, ?clearsI, rfl,
    regFrame_clearI u _⟩
  case clearsI => exact setBit_getLsbD u.sreg 7#3 false 7 (by decide)

end Sys2Proof.Machine
end

section
/-! SUPPORT. What every instruction and every step keeps: program memory, SRAM in form and range, sleep, and I with what
inhibits interrupts (spec R43, R78, R312, R328): obligations O14, O15, O17, O18 and O19. -/

namespace Sys2Proof.Machine

/-! ### What is kept -/

/-- The part of the state that the invariant speaks of: both memories, the two model bits and I. -/
def State.vitals (s : State) : Memory × Memory × Bool × Bool × Bool :=
  (s.program, s.sram, s.asleep, s.irqInhibit, s.sreg.getLsbD 7)

/-- What SRAM keeps: its canonical form, inside its addresses. -/
def State.SramOk (s : State) : Prop :=
  Memory.wf s.sram = true ∧ Memory.within Config.sramStart.toNat (Config.ramEnd.toNat + 1) s.sram = true

/-- What an instruction that runs from `s` to `t` keeps; interrupts are inhibited anew exactly when I went from 0 to 1
(R43). -/
structure Keeps (s t : State) : Prop where
  program : t.program = s.program
  asleep : t.asleep = s.asleep
  sram : s.SramOk → t.SramOk
  irqInhibit : t.irqInhibit = (s.irqInhibit || (!s.sreg.getLsbD 7 && t.sreg.getLsbD 7))

theorem keeps_of_vitals {s t : State} (h : t.vitals = s.vitals) : Keeps s t := by
  simp only [State.vitals, Prod.mk.injEq] at h
  obtain ⟨hprogram, hsram, hasleep, hinh, hI⟩ := h
  refine ⟨hprogram, hasleep, fun hok => ?sram, ?irqInhibit⟩
  case sram => rwa [State.SramOk, hsram]
  case irqInhibit => rw [hinh, hI, Bool.not_and_self, Bool.or_false]

/-- What comes after may change anything else. -/
theorem Keeps.trans_vitals {s t u : State} (h : Keeps s t) (hu : u.vitals = t.vitals) : Keeps s u := by
  simp only [State.vitals, Prod.mk.injEq] at hu
  obtain ⟨hprogram, hsram, hasleep, hinh, hI⟩ := hu
  refine ⟨hprogram.trans h.program, hasleep.trans h.asleep, fun hok => ?sram, ?irqInhibit⟩
  case sram =>
    rw [State.SramOk, hsram]
    exact h.sram hok
  case irqInhibit => rw [hinh, hI, h.irqInhibit]

/-- What came before may have changed anything else. -/
theorem Keeps.of_vitals_left {s t u : State} (ht : t.vitals = s.vitals) (h : Keeps t u) : Keeps s u := by
  simp only [State.vitals, Prod.mk.injEq] at ht
  obtain ⟨hprogram, hsram, hasleep, hinh, hI⟩ := ht
  refine ⟨h.program.trans hprogram, h.asleep.trans hasleep, fun hok => h.sram ?sram, ?irqInhibit⟩
  case sram => rwa [State.SramOk, hsram]
  case irqInhibit => rw [h.irqInhibit, hinh, hI]

theorem keeps_of_next {s u t : State} (h : (.next u : Result State) = .next t) (hu : Keeps s u) : Keeps s t := by
  cases h
  exact hu

theorem keeps_of_andThen_next {α : Type} {o : Result α} {f : α → State} {s t : State}
    (h : andThen o (fun a => .next (f a)) = .next t) (hf : ∀ a, o = .next a → Keeps s (f a)) : Keeps s t := by
  obtain ⟨a, ha, h⟩ := andThen_eq_next.1 h
  exact keeps_of_next h (hf a ha)

/-! ### The operations on the state -/

/-- Flags that leave I alone. -/
theorem State.setFlags_vitals (s : State) {f : Flags} (hf : f.i = s.flags.i) : (s.setFlags f).vitals = s.vitals := by
  have hI : f.byte.getLsbD 7 = s.sreg.getLsbD 7 := (f.byte_getLsbD 7).trans hf
  simp only [State.vitals, State.setFlags_sreg, hI]
  rfl

theorem keeps_writeSreg (s : State) (v : Byte) : Keeps s (s.writeSreg v) := ⟨rfl, rfl, id, rfl⟩

theorem memRead_vitals {a : DataAddr} {s : State} {r : Byte × State} (h : memRead a s = .next r) :
    r.2.vitals = s.vitals := by
  obtain ⟨⟨-, hr⟩ | ⟨-, hr⟩, -⟩ := memRead_eq_next h <;> rw [hr]
  rfl

theorem memWrite_keeps {a : DataAddr} {v : Byte} {s t : State} (h : memWrite a v s = .next t) : Keeps s t := by
  obtain ⟨-, hasleep, -, hprogram⟩ := memWrite_frame h
  refine ⟨hprogram, hasleep, fun hok => memWrite_sram h hok.1 hok.2, ?irqInhibit⟩
  obtain ⟨r, -, rfl⟩ | ⟨-, rfl⟩ | ⟨-, rfl⟩ | ⟨-, rfl⟩ | ⟨-, rfl⟩ | ⟨-, rfl⟩ := memWrite_eq_next h
  case inr.inr.inr.inl => rfl
  all_goals exact (keeps_of_vitals (s := s) rfl).irqInhibit

theorem skipIf_vitals {c : Bool} {s t : State} (h : skipIf c s = .next t) : t.vitals = s.vitals := by
  obtain ⟨n, rfl⟩ := skipIf_eq_next h
  rfl

/-! ### The stack -/

theorem pushByte_keeps {v : Byte} {s t : State} (h : pushByte v s = .next t) : Keeps s t := by
  obtain ⟨u, hu, rfl⟩ := pushByte_eq_next.1 h
  exact (memWrite_keeps hu).trans_vitals rfl

/-- What pushes of a return address leave in SREG: at most one of the two bytes goes there. -/
theorem ReturnPushed.sreg {s t : State} {ra : ProgAddr} (h : ReturnPushed s t ra) :
    s.sp = Config.sregAddr ∧ t.sreg = raLow ra ∨
    s.sp ≠ Config.sregAddr ∧ (t.sreg = raHigh ra ∨ t.sreg = s.sreg) := by
  by_cases hlow : s.sp = Config.sregAddr
  · have hbyte : t.dataByte s.sp = some (raLow ra) := h.low (by rw [hlow]; decide) (by rw [hlow]; decide)
    rw [hlow, State.dataByte_sregAddr] at hbyte
    exact .inl ⟨hlow, Option.some.inj hbyte⟩
  refine .inr ⟨hlow, ?_⟩
  by_cases hhigh : s.highPushAt ra = Config.sregAddr
  · have hbyte : t.dataByte (s.highPushAt ra) = some (raHigh ra) := h.high (by rw [hhigh]; decide) (by rw [hhigh]; decide)
    rw [hhigh, State.dataByte_sregAddr] at hbyte
    exact .inl (Option.some.inj hbyte)
  · have hbyte : t.dataByte Config.sregAddr = s.dataByte Config.sregAddr := by
      refine h.frame.bytes _ ?_
      simp only [List.mem_cons, List.not_mem_nil, or_false, not_or]
      exact ⟨Ne.symm hlow, Ne.symm hhigh, by decide, by decide⟩
    exact .inr (Option.some.inj hbyte)

/-- Two pushes never turn I on and off again: the byte pushed second has bit 7 clear, and goes to SREG only if the first
did not. -/
theorem ReturnPushed.irqInhibit_eq {s t : State} {ra : ProgAddr} (h : ReturnPushed s t ra) :
    t.irqInhibit = (s.irqInhibit || (!s.sreg.getLsbD 7 && t.sreg.getLsbD 7)) := by
  rw [h.irqInhibit, State.inhibitAfterWrite]
  obtain ⟨hsp, hsreg⟩ | ⟨hsp, hsreg | hsreg⟩ := h.sreg
  · rw [hsreg, beq_iff_eq.2 hsp, Bool.true_and]
  · rw [hsreg, beq_eq_false_iff_ne.2 hsp, raHigh_bit7, Bool.false_and, Bool.false_and, Bool.and_false]
  · rw [hsreg, beq_eq_false_iff_ne.2 hsp, Bool.not_and_self, Bool.false_and, Bool.false_and]

theorem pushReturn_keeps {ra : ProgAddr} {s t : State} (h : pushReturn ra s = .next t) : Keeps s t := by
  obtain ⟨u, hu, ht⟩ := pushReturn_eq_next.1 h
  have hfirst := pushByte_keeps hu
  have hsecond := pushByte_keeps ht
  exact ⟨hsecond.program.trans hfirst.program, hsecond.asleep.trans hfirst.asleep,
    fun hok => hsecond.sram (hfirst.sram hok), (pushReturn_pushed h).2.irqInhibit_eq⟩

theorem popByte_vitals {s : State} {r : Byte × State} (h : popByte s = .next r) : r.2.vitals = s.vitals :=
  memRead_vitals (s := s.withSp (s.sp + 1#16)) h

theorem popReturn_vitals {s t : State} (h : popReturn s = .next t) : t.vitals = s.vitals := by
  obtain ⟨hi, s1, lo, s2, h1, h2, -, rfl⟩ := popReturn_eq_next h
  exact (popByte_vitals h2).trans (popByte_vitals h1)

/-! ### The shapes of the instructions -/

theorem regResult_keeps {d : Reg} {v : Byte} {f : Flags} {s t : State} (h : regResult d v f s = .next t)
    (hf : f.i = s.flags.i) : Keeps s t :=
  keeps_of_next h (keeps_of_vitals (s.setFlags_vitals hf))

theorem pairResult_keeps {d : Reg} {v : Word} {f : Flags} {s t : State} (h : pairResult d v f s = .next t)
    (hf : f.i = s.flags.i) : Keeps s t :=
  keeps_of_next h (keeps_of_vitals (s.setFlags_vitals hf))

theorem flagsAlone_keeps {f : Flags} {s t : State} (h : (.next ((s.setFlags f).advance 1) : Result State) = .next t)
    (hf : f.i = s.flags.i) : Keeps s t :=
  keeps_of_next h (keeps_of_vitals (s.setFlags_vitals hf))

theorem loadAt_keeps {d : Reg} {a : DataAddr} {n : Nat} {s t : State} (h : loadAt d a n s = .next t) : Keeps s t :=
  keeps_of_andThen_next h fun _ hr => keeps_of_vitals (memRead_vitals hr)

theorem storeAt_keeps {a : DataAddr} {r : Reg} {n : Nat} {s t : State} (h : storeAt a r n s = .next t) : Keeps s t :=
  keeps_of_andThen_next h fun _ hu => (memWrite_keeps hu).trans_vitals rfl

theorem loadUpdate_keeps {w : Word} {u : Update} {p : Pointer} {d : Reg} {s t : State}
    (h : loadUpdate w u p d s = .next t) : Keeps s t := by
  unfold loadUpdate at h
  split at h
  · cases h
  · exact keeps_of_andThen_next h fun _ hr => keeps_of_vitals (memRead_vitals hr)

theorem storeUpdate_keeps {w : Word} {u : Update} {p : Pointer} {r : Reg} {s t : State}
    (h : storeUpdate w u p r s = .next t) : Keeps s t := by
  obtain ⟨-, v, hv, rfl⟩ := storeUpdate_eq_next h
  exact (memWrite_keeps hv).trans_vitals rfl

theorem execLpmZInc_keeps {d : Reg} {s t : State} (h : execLpmZInc d s = .next t) : Keeps s t := by
  unfold execLpmZInc at h
  split at h
  · cases h
  · exact keeps_of_andThen_next h fun _ _ => keeps_of_vitals rfl

theorem changeIoBit_keeps {a : BitVec 5} {b : BitVec 3} {x : Bool} {s t : State}
    (h : changeIoBit a b x s = .next t) : Keeps s t := by
  rw [changeIoBit_eq_next] at h
  exact keeps_of_next h (keeps_of_vitals rfl)

theorem skipOnIoBit_keeps {a : BitVec 5} {b : BitVec 3} {x : Bool} {s t : State}
    (h : skipOnIoBit a b x s = .next t) : Keeps s t := by
  rw [skipOnIoBit_eq] at h
  have hskip := skipIf_vitals h
  exact keeps_of_vitals hskip

theorem jumpTo_keeps {n : Nat} {s t : State} (h : jumpTo n s = .next t) : Keeps s t :=
  keeps_of_andThen_next h fun _ _ => keeps_of_vitals rfl

theorem branchIf_vitals (c : Bool) (k : BitVec 7) (s : State) :
    (if c then s.withPc (relativeTarget k s) else s.advance 1).vitals = s.vitals := by
  cases c <;> rfl

theorem pushAndGo_keeps {ra target : ProgAddr} {s t : State} (h : pushAndGo ra target s = .next t) : Keeps s t :=
  keeps_of_andThen_next h fun _ hu => (pushReturn_keeps hu).trans_vitals rfl

theorem callTo_keeps {k n : Nat} {s t : State} (h : callTo k n s = .next t) : Keeps s t := by
  obtain ⟨target, hgo⟩ := callTo_eq_pushAndGo h
  exact pushAndGo_keeps hgo

theorem interruptReturn_keeps {s t : State} (h : interruptReturn s = .next t) : Keeps s t := by
  obtain ⟨u, hu, rfl⟩ := interruptReturn_eq_next.1 h
  exact .of_vitals_left (popReturn_vitals hu) (keeps_writeSreg u _)

/-! ### Every instruction -/

/-- What every instruction keeps: the instructions grouped by the shape of their meaning, and `sleep` alone puts the CPU
to sleep. -/
theorem exec_keeps {i : Instr} {s t : State} (h : exec i s = .next t) :
    Keeps { s with asleep := decide (i = .sleep) || s.asleep } t := by
  by_cases hi : i = .sleep
  · subst hi
    exact keeps_of_next h (keeps_of_vitals rfl)
  rw [decide_eq_false hi, Bool.false_or]
  change Keeps s t
  cases i with
  | sleep => exact absurd rfl hi
  | nop | wdr | movw | mov | ldi | swap | bld | rjmp => exact keeps_of_next h (keeps_of_vitals rfl)
  | bset | bclr => exact keeps_of_next h ((keeps_writeSreg s _).trans_vitals rfl)
  | add | adc | sub | sbc | subi | sbci | and | andi | or | ori | eor
  | com | neg | inc | dec | asr | lsr | ror => exact regResult_keeps h rfl
  | cp | cpc | cpi | bst => exact flagsAlone_keeps h rfl
  | adiw | sbiw | mul | muls | mulsu | fmul | fmuls | fmulsu => exact pairResult_keeps h rfl
  | lds | lddZ | lddY | ldX | inp => exact loadAt_keeps h
  | pop d => exact keeps_of_andThen_next h fun _ hr => keeps_of_vitals (popByte_vitals hr)
  | sts | stdZ | stdY | stX | out => exact storeAt_keeps h
  | ldZInc | ldZDec | ldYInc | ldYDec | ldXInc | ldXDec => exact loadUpdate_keeps h
  | stZInc | stZDec | stYInc | stYDec | stXInc | stXDec => exact storeUpdate_keeps h
  | lpm | lpmZ => exact keeps_of_andThen_next h fun _ _ => keeps_of_vitals rfl
  | lpmZInc => exact execLpmZInc_keeps h
  | cbi | sbi => exact changeIoBit_keeps h
  | push => exact keeps_of_andThen_next h fun _ hu => (pushByte_keeps hu).trans_vitals rfl
  | jmp | ijmp => exact jumpTo_keeps h
  | call | icall => exact callTo_keeps h
  | rcall => exact pushAndGo_keeps h
  | ret => exact keeps_of_vitals (popReturn_vitals h)
  | reti => exact interruptReturn_keeps h
  | brbs | brbc => exact keeps_of_next h (keeps_of_vitals (branchIf_vitals _ _ s))
  | cpse | sbrc | sbrs => exact keeps_of_vitals (skipIf_vitals h)
  | sbic | sbis => exact skipOnIoBit_keeps h
  | des | eijmp | eicall | brk => cases h

/-! ### Every step -/

/-- What the entry of an accepted interrupt keeps: it was accepted with I = 1 and nothing inhibiting, and leaves the CPU
awake with I = 0 and nothing inhibiting. -/
theorem interruptEntry_keeps {v : IrqVector} {s t : State} (h : interruptEntry v s = .next t)
    (hmay : s.mayAccept = true) :
    t.program = s.program ∧ (s.SramOk → t.SramOk) ∧ t.irqInhibit = false ∧ t.asleep = false := by
  obtain ⟨u, hu, rfl⟩ := interruptEntry_eq_next.1 h
  obtain ⟨hI, hinh⟩ := mayAccept_iff.1 hmay
  have hkeeps := pushReturn_keeps hu
  refine ⟨hkeeps.program, hkeeps.sram, hkeeps.irqInhibit.trans ?_, rfl⟩
  rw [hI, hinh]
  rfl

/-- Settles O14: an entry leaves nothing inhibited, a step of a sleeping CPU changes nothing that the invariant speaks of,
and an instruction inhibits only by turning I on, which `sleep` does not. -/
theorem stepKeepsTheInvariant : Obligations.StepKeepsTheInvariant := by
  intro s t hinv hstep
  obtain ⟨hwf, hrange, hprogramWf, hprogramRange, hinhibited, hasleep⟩ := hinv
  obtain ⟨v, hacc, h⟩ | ⟨-, rfl⟩ | ⟨hs, i, -, h⟩ := step_eq_next hstep
  case inl =>
    have hmay : s.mayAccept = true := mayAccept_of_accepted hacc
    obtain ⟨hprogram, hsram, hinh, hawake⟩ := interruptEntry_keeps h hmay
    obtain ⟨hwf', hrange'⟩ := hsram ⟨hwf, hrange⟩
    refine ⟨hwf', hrange', hprogram ▸ hprogramWf, hprogram ▸ hprogramRange, ?_, fun _ => hinh⟩
    intro hinh'
    rw [hinh] at hinh'
    cases hinh'
  case inr.inl => exact ⟨hwf, hrange, hprogramWf, hprogramRange, hinhibited, hasleep⟩
  case inr.inr =>
    obtain ⟨hprogram, hkept, hsram, hinh⟩ := exec_keeps h
    obtain ⟨hwf', hrange'⟩ := hsram ⟨hwf, hrange⟩
    rw [Bool.false_or] at hinh
    refine ⟨hwf', hrange', hprogram ▸ hprogramWf, hprogram ▸ hprogramRange, ?enabled, ?awake⟩
    case enabled =>
      intro hinh'
      rw [hinh, Bool.and_eq_true] at hinh'
      exact hinh'.2
    case awake =>
      intro hasleep'
      rw [hkept, hs, Bool.or_false, decide_eq_true_eq] at hasleep'
      subst hasleep'
      cases h
      rfl

/-- Settles O15: nothing is written after reset, and nothing inhibited. -/
theorem resetMeetsTheInvariant : Obligations.ResetMeetsTheInvariant :=
  ⟨State.reset_memories_wf.1, rfl, State.reset_memories_wf.2, rfl, nofun, fun _ => rfl⟩

/-- Settles O17: neither an entry nor a step of a sleeping CPU nor an instruction writes program memory. -/
theorem noStepChangesProgramMemory : Obligations.NoStepChangesProgramMemory := by
  intro s t hstep
  have hprogram : t.program = s.program := by
    obtain ⟨v, hacc, h⟩ | ⟨-, rfl⟩ | ⟨-, i, -, h⟩ := step_eq_next hstep
    · have hmay : s.mayAccept = true := mayAccept_of_accepted hacc
      exact (interruptEntry_keeps h hmay).1
    · rfl
    · exact (exec_keeps h).program
  exact ⟨hprogram, programWord_congr hprogram⟩

/-- Settles O18: of the three things a step can be, an instruction alone puts a CPU that was awake to sleep, and an entry
alone wakes one that was not. -/
theorem onlySleepSleepsAndOnlyAnInterruptWakes : Obligations.OnlySleepSleepsAndOnlyAnInterruptWakes := by
  intro s t hstep
  obtain ⟨v, hacc, h⟩ | ⟨hs, rfl⟩ | ⟨hs, i, hfetch, h⟩ := step_eq_next hstep
  case inl =>
    have hmay : s.mayAccept = true := mayAccept_of_accepted hacc
    obtain ⟨-, -, -, hawake⟩ := interruptEntry_keeps h hmay
    exact ⟨fun _ ht => absurd ht (Bool.eq_false_iff.1 hawake), fun _ _ => ⟨v, hacc⟩⟩
  case inr.inl =>
    exact ⟨fun hs' => absurd hs (Bool.eq_false_iff.1 hs'), fun _ ht => absurd hs (Bool.eq_false_iff.1 ht)⟩
  case inr.inr =>
    refine ⟨fun _ ht => ?_, fun hs' => absurd hs' (Bool.eq_false_iff.1 hs)⟩
    rw [(exec_keeps h).asleep, hs, Bool.or_false, decide_eq_true_eq] at ht
    rw [hfetch, ht]

/-- Settles O19: after an instruction, interrupts are inhibited exactly when it turned I on. -/
theorem enablingInterruptsWaitsOneInstruction : Obligations.EnablingInterruptsWaitsOneInstruction := by
  intro s t hs hacc hstep
  have hinh : t.irqInhibit = (!s.sreg.getLsbD 7 && t.sreg.getLsbD 7) := by
    rw [step_awake hacc hs, acceptanceTest_snd] at hstep
    obtain ⟨i, -, h⟩ := andThen_eq_next.1 hstep
    exact (exec_keeps h).irqInhibit.trans (Bool.false_or _)
  refine ⟨fun hold hnew => ?enabled, fun hnew => ?disabled, fun hold hnew => ?still⟩
  case enabled =>
    rw [hold, hnew] at hinh
    exact ⟨hinh, acceptanceTest_of_not_mayAccept (not_mayAccept_of_inhibited hinh)⟩
  case disabled =>
    rw [hnew, Bool.and_false] at hinh
    exact ⟨hinh, acceptanceTest_of_not_mayAccept (not_mayAccept_of_disabled hnew)⟩
  case still =>
    rw [hold, hnew] at hinh
    exact ⟨hinh, acceptanceTest_of_mayAccept (mayAccept_iff.2 ⟨hnew, hinh⟩)⟩

end Sys2Proof.Machine
end

section
/-! SUPPORT. The dispatch of data accesses by address (spec R39, R70), and the accesses and pointers that fault (R262,
R321): obligations O20, O21, O22 and O23. -/

namespace Sys2Proof.Machine

/-! ### Where an address leads -/

theorem dataPlace_of_le {a : DataAddr} (h : a.toNat ≤ 0x001F) : dataPlace a = .reg (a.extractLsb' 0 5) := if_pos h

/-- A low address names the register of that number (R23). -/
theorem toNat_extract_of_le {a : DataAddr} (h : a.toNat ≤ 0x001F) : (a.extractLsb' 0 5).toNat = a.toNat := by
  rw [BitVec.extractLsb'_toNat]
  exact Nat.mod_eq_of_lt (Nat.lt_succ_of_le h)

/-- A device is at every other address up to 0x00FF (R39, R70). -/
theorem dataPlace_of_device {a : DataAddr} (hreg : 0x001F < a.toNat) (hspl : a.toNat ≠ 0x005D) (hsph : a.toNat ≠ 0x005E)
    (hsreg : a.toNat ≠ 0x005F) (h : a.toNat ≤ 0x00FF) : dataPlace a = .device := by
  have hne {c : DataAddr} (hc : a.toNat ≠ c.toNat) : a ≠ c := mt (congrArg BitVec.toNat) hc
  rw [dataPlace, if_neg (Nat.not_le.2 hreg), if_neg (hne (c := Config.splAddr) hspl),
    if_neg (hne (c := Config.sphAddr) hsph), if_neg (hne (c := Config.sregAddr) hsreg), if_pos h]

/-- A write of SREG inhibits interrupts if it turns I on, and leaves the bit alone if not (R43). -/
theorem inhibit_eq_ite (inhibited old new : Bool) :
    (inhibited || (!old && new)) = if old = false ∧ new = true then true else inhibited := by
  revert inhibited old new
  decide

/-- Settles O20: an address leads to one place, and the read and the write are those of the place. -/
theorem dataAccessesFollowTheAddressMap : Obligations.DataAccessesFollowTheAddressMap := by
  intro a v s
  by_cases hreg : a.toNat ≤ 0x001F
  · have hplace := dataPlace_of_le hreg
    rw [dif_pos hreg]
    simp only [memRead, memWrite, hplace, State.reg, State.setReg, toNat_extract_of_le hreg, and_self]
  rw [dif_neg hreg]
  by_cases hspl : a.toNat = 0x005D
  · obtain rfl : a = Config.splAddr := BitVec.eq_of_toNat_eq hspl
    exact ⟨rfl, rfl⟩
  rw [if_neg hspl]
  by_cases hsph : a.toNat = 0x005E
  · obtain rfl : a = Config.sphAddr := BitVec.eq_of_toNat_eq hsph
    exact ⟨rfl, rfl⟩
  rw [if_neg hsph]
  by_cases hsreg : a.toNat = 0x005F
  · obtain rfl : a = Config.sregAddr := BitVec.eq_of_toNat_eq hsreg
    rw [← inhibit_eq_ite]
    exact ⟨rfl, rfl⟩
  rw [if_neg hsreg]
  by_cases hdevice : a.toNat ≤ 0x00FF
  · have hplace := dataPlace_of_device (Nat.lt_of_not_le hreg) hspl hsph hsreg hdevice
    rw [if_pos hdevice]
    simp only [memRead, memWrite, hplace, State.record, and_self]
  rw [if_neg hdevice]
  by_cases hsram : a.toNat ≤ 0x08FF
  · have hplace : dataPlace a = .sram := dataPlace_eq_sram.2 ⟨Nat.lt_of_not_le hdevice, hsram⟩
    rw [if_pos hsram]
    refine ⟨?read, _, memWrite_of_sram v s hplace, s.storeSram_sramByte_self _ v, ?elsewhere, rfl⟩
    case read => simp only [memRead, hplace]
    case elsewhere => exact fun b hb => (s.storeSram_sramByte _ b v).trans (if_neg hb)
  rw [if_neg hsram]
  exact ⟨memRead_outside s (Nat.lt_of_not_le hsram), memWrite_outside s v (Nat.lt_of_not_le hsram)⟩

/-- A write that completes is inside the data space. -/
theorem le_of_memWrite {a : DataAddr} {v : Byte} {s t : State} (h : memWrite a v s = .next t) : a.toNat ≤ 0x08FF := by
  refine Nat.le_of_not_lt fun hout => ?_
  rw [memWrite_outside s v hout] at h
  cases h

/-- Settles O21: the byte and the other bytes after the write are those of `State.dataByte`, and a read that meets no
device changes nothing. -/
theorem aReadGivesTheLastValueWritten : Obligations.AReadGivesTheLastValueWritten := by
  intro a b v s t h hdev
  obtain ⟨hself, hothers⟩ := memWrite_dataByte h
  have hin := le_of_memWrite h
  obtain ⟨u, hu, hstored, -, -⟩ := memWrite_inside s v hin
  cases hu.symm.trans h
  refine ⟨?read, hothers b, ?events⟩
  case read =>
    rw [memRead_inside t hin, State.readByte, hself hdev, Option.getD_some, State.afterRead, State.eventsAfterRead,
      if_neg hdev]
  case events => rw [hstored.events, State.eventsAfterWrite, if_neg hdev]

/-! ### Accesses above the data space -/

/-- A load with pointer update above the data space faults with the address it named. -/
theorem loadUpdate_outside (w : Word) {u : Update} {p : Pointer} {d : Reg} {s : State} (hd : p.owns d = false)
    (h : 0x08FF < (updateAddr u p s).toNat) :
    loadUpdate w u p d s = .fault (.dataAddressOutOfRange s.pc (updateAddr u p s) .read) := by
  rw [loadUpdate, hd, if_neg Bool.false_ne_true, memRead_outside s h, andThen_fault]

/-- A store with pointer update above the data space faults with the address it named. -/
theorem storeUpdate_outside (w : Word) {u : Update} {p : Pointer} {r : Reg} {s : State} (hr : p.owns r = false)
    (h : 0x08FF < (updateAddr u p s).toNat) :
    storeUpdate w u p r s = .fault (.dataAddressOutOfRange s.pc (updateAddr u p s) .write) := by
  rw [storeUpdate, hr, if_neg Bool.false_ne_true, memWrite_outside s _ h, andThen_fault]

theorem execPush_outside {r : Reg} {s : State} (h : 0x08FF < s.sp.toNat) :
    execPush r s = .fault (.dataAddressOutOfRange s.pc s.sp .write) := by
  rw [execPush, pushByte, memWrite_outside s _ h, andThen_fault, andThen_fault]

theorem execPop_outside {d : Reg} {s : State} (h : 0x08FF < (s.sp + 1#16).toNat) :
    execPop d s = .fault (.dataAddressOutOfRange s.pc (s.sp + 1#16) .read) := by
  rw [execPop, popByte_outside s h, andThen_fault]

/-- Settles O22: each instruction is a load or a store of one of the shapes, at the address it names. -/
theorem addressesAboveRamendFault : Obligations.AddressesAboveRamendFault := by
  intro s d q k
  refine ⟨fun h => ⟨loadAt_outside d 2 s h, storeAt_outside d 2 s h⟩, ?displaced,
    fun h => ⟨loadAt_outside d 1 s h, storeAt_outside d 1 s h⟩, ?update, execPush_outside, execPop_outside⟩
  case displaced =>
    intro p ld st hrow h
    simp only [List.mem_cons, List.not_mem_nil, or_false, Prod.mk.injEq] at hrow
    obtain ⟨rfl, rfl, rfl⟩ | ⟨rfl, rfl, rfl⟩ := hrow
    all_goals exact ⟨loadAt_outside d 1 s h, storeAt_outside d 1 s h⟩
  case update =>
    intro u p ld st hrow hd h
    simp only [List.mem_cons, List.not_mem_nil, or_false, Prod.mk.injEq] at hrow
    obtain ⟨rfl, rfl, rfl, rfl⟩ | ⟨rfl, rfl, rfl, rfl⟩ | ⟨rfl, rfl, rfl, rfl⟩ | ⟨rfl, rfl, rfl, rfl⟩ |
      ⟨rfl, rfl, rfl, rfl⟩ | ⟨rfl, rfl, rfl, rfl⟩ := hrow
    all_goals exact ⟨loadUpdate_outside _ hd h, storeUpdate_outside _ hd h⟩

/-! ### Pointers and their own registers -/

/-- A read can fault in one way only. -/
theorem memRead_eq_fault {a : DataAddr} {s : State} {r : Fault} (h : memRead a s = .fault r) :
    r = .dataAddressOutOfRange s.pc a .read := by
  obtain hout | hin := Nat.lt_or_ge 0x08FF a.toNat
  · rw [memRead_outside s hout] at h
    cases h
    rfl
  · rw [memRead_inside s hin] at h
    cases h

/-- A write can fault in one way only. -/
theorem memWrite_eq_fault {a : DataAddr} {v : Byte} {s : State} {r : Fault} (h : memWrite a v s = .fault r) :
    r = .dataAddressOutOfRange s.pc a .write := by
  obtain hout | hin := Nat.lt_or_ge 0x08FF a.toNat
  · rw [memWrite_outside s v hout] at h
    cases h
    rfl
  · obtain ⟨t, ht⟩ := memWrite_completes v s hin
    rw [ht] at h
    cases h

/-- What follows an operation and cannot fault adds no fault. -/
theorem fault_of_andThen_next {α : Type} {o : Result α} {f : α → State} {r : Fault}
    (h : andThen o (fun a => .next (f a)) = .fault r) : o = .fault r := by
  cases o with
  | next a => cases h
  | fault r' =>
    cases h
    rfl
  | refused r' => cases h

theorem loadAt_ne_undefined {d : Reg} {a : DataAddr} {n : Nat} {s : State} {p : ProgAddr} {w : Word} :
    loadAt d a n s ≠ .fault (.undefinedOperandCombination p w) := fun h =>
  nomatch memRead_eq_fault (fault_of_andThen_next h)

theorem storeAt_ne_undefined {r : Reg} {a : DataAddr} {n : Nat} {s : State} {p : ProgAddr} {w : Word} :
    storeAt a r n s ≠ .fault (.undefinedOperandCombination p w) := fun h =>
  nomatch memWrite_eq_fault (fault_of_andThen_next h)

/-- A load with pointer update is undefined exactly for the pointer's own registers (R262). -/
theorem loadUpdate_undefined_iff {w : Word} {u : Update} {p : Pointer} {d : Reg} {s : State} :
    loadUpdate w u p d s = .fault (.undefinedOperandCombination s.pc w) ↔ p.owns d = true := by
  cases hd : p.owns d with
  | true => exact iff_of_true (if_pos hd) rfl
  | false =>
    refine iff_of_false (fun h => ?_) Bool.false_ne_true
    rw [loadUpdate, hd, if_neg Bool.false_ne_true] at h
    exact nomatch memRead_eq_fault (fault_of_andThen_next h)

/-- A store with pointer update is undefined exactly for the pointer's own registers (R262). -/
theorem storeUpdate_undefined_iff {w : Word} {u : Update} {p : Pointer} {r : Reg} {s : State} :
    storeUpdate w u p r s = .fault (.undefinedOperandCombination s.pc w) ↔ p.owns r = true := by
  cases hr : p.owns r with
  | true => exact iff_of_true (if_pos hr) rfl
  | false =>
    refine iff_of_false (fun h => ?_) Bool.false_ne_true
    rw [storeUpdate, hr, if_neg Bool.false_ne_true] at h
    exact nomatch memWrite_eq_fault (fault_of_andThen_next h)

theorem Pointer.owns_iff_mem {p : Pointer} {r : Reg} : p.owns r = true ↔ r ∈ [p.low, p.low + 1#5] := by
  simp only [Pointer.owns, Bool.or_eq_true, beq_iff_eq, List.mem_cons, List.not_mem_nil, or_false]

/-- Settles O23: each of the twelve is a load or a store with update, and the word recorded is its own. -/
theorem undefinedPointerCombinationsFault : Obligations.UndefinedPointerCombinationsFault := by
  intro s d
  refine ⟨fun p i hrow => ?update, fun q i hrow a w => ?plain⟩
  case update =>
    have hown : exec i s = .fault (.undefinedOperandCombination s.pc (firstWord i)) ↔ p.owns d = true := by
      simp only [List.mem_cons, List.not_mem_nil, or_false, Prod.mk.injEq] at hrow
      obtain ⟨rfl, rfl⟩ | ⟨rfl, rfl⟩ | ⟨rfl, rfl⟩ | ⟨rfl, rfl⟩ | ⟨rfl, rfl⟩ | ⟨rfl, rfl⟩ | ⟨rfl, rfl⟩ | ⟨rfl, rfl⟩ |
        ⟨rfl, rfl⟩ | ⟨rfl, rfl⟩ | ⟨rfl, rfl⟩ | ⟨rfl, rfl⟩ := hrow
      iterate 3
        iterate 2 exact loadUpdate_undefined_iff
        iterate 2 exact storeUpdate_undefined_iff
    rw [hown, Pointer.owns_iff_mem]
    cases p <;> rfl
  case plain =>
    simp only [List.mem_cons, List.not_mem_nil, or_false] at hrow
    obtain rfl | rfl | rfl | rfl | rfl | rfl := hrow
    iterate 3 exact loadAt_ne_undefined
    iterate 3 exact storeAt_ne_undefined

end Sys2Proof.Machine
end

section
/-! SUPPORT. The rows of the opcode table and the reserved patterns: between them they take every first word (spec R130,
R136): obligations O1, O2 and O6. -/

namespace Sys2Proof

/-- Settles O2: any two rows of the table fix some bit in opposite ways. -/
theorem noFirstWordMatchesTwoRows : Obligations.NoFirstWordMatchesTwoRows := by
  intro w m n hm hn h h'
  obtain hlt | heq | hgt := Nat.lt_trichotomy m n
  · exact absurd h (Bool.eq_false_iff.1 (not_accepts_of_lt hm hn hlt h'))
  · exact heq
  · exact absurd h' (Bool.eq_false_iff.1 (not_accepts_of_lt hn hm hgt h))

/-- Settles O1: each word is the encoding of the instruction listed. -/
theorem decodeReadsTheListedWords : Obligations.DecodeReadsTheListedWords := by
  refine ⟨?_, ?_, ?_, ?_, ?_, ?_, ?_, ?_, ?_, ?lds, ?_, ?_, ?_, ?_, ?_, ?_, ?_, ?jmp, ?_, ?_, ?_⟩
  case lds | jmp => exact decodeWords_of_encode_eq_two rfl rfl
  all_goals exact decodeWords_of_encode_eq_one rfl rfl

/-! ### Patterns that take every word between them -/

/-- A bit pattern: the bits that are 1 in the mask are fixed, to those of the value. -/
structure Pattern where
  mask : Word
  value : Word

def Pattern.Fits (p : Pattern) (w : Word) : Prop := w &&& p.mask = p.value

/-- Every word of pattern `q` fits `p`: all that `p` fixes is fixed by `q`, to the same bits. -/
def Pattern.includes (p q : Pattern) : Bool := q.mask &&& p.mask == p.mask && q.value &&& p.mask == p.value

/-- The two patterns fix no bit in opposite ways. -/
def Pattern.meets (p q : Pattern) : Bool := (p.value ^^^ q.value) &&& (p.mask &&& q.mask) == 0#16

theorem Pattern.fits_of_includes {p q : Pattern} {w : Word} (h : p.includes q = true) (hw : q.Fits w) : p.Fits w := by
  rw [Pattern.includes, Bool.and_eq_true, beq_iff_eq, beq_iff_eq] at h
  obtain ⟨hmask, hvalue⟩ := h
  rw [Pattern.Fits, ← hvalue, ← hw, BitVec.and_assoc, hmask]

/-- Pattern `q` with bit `b` fixed as well. -/
def Pattern.fixBit (q : Pattern) (b : Nat) (x : Bool) : Pattern :=
  ⟨q.mask ||| BitVec.twoPow 16 b, if x then q.value ||| BitVec.twoPow 16 b else q.value⟩

theorem Pattern.fits_fixBit {q : Pattern} {w : Word} (hw : q.Fits w) (b : Nat) :
    (q.fixBit b false).Fits w ∨ (q.fixBit b true).Fits w := by
  rw [Pattern.Fits] at hw
  simpa only [Pattern.Fits, Pattern.fixBit, hw, if_true, Bool.false_eq_true, if_false] using and_or_twoPow w q.mask b

/-- The patterns of the list take every word of `q`, as found by fixing the given bits one after the other, with only
the patterns that still meet. -/
def coversAt : List Nat → Pattern → List Pattern → Bool
  | [], q, ps => ps.any (·.includes q)
  | b :: bs, q, ps =>
    ps.any (·.includes q) ||
      (coversAt bs (q.fixBit b false) (ps.filter (·.meets (q.fixBit b false))) &&
        coversAt bs (q.fixBit b true) (ps.filter (·.meets (q.fixBit b true))))

theorem exists_fits_of_any {q : Pattern} {ps : List Pattern} {w : Word} (h : ps.any (·.includes q) = true)
    (hw : q.Fits w) : ∃ p ∈ ps, p.Fits w := by
  obtain ⟨p, hp, hpq⟩ := List.any_eq_true.1 h
  exact ⟨p, hp, Pattern.fits_of_includes hpq hw⟩

theorem exists_fits_of_coversAt {bs : List Nat} {q : Pattern} {ps : List Pattern} {w : Word}
    (h : coversAt bs q ps = true) (hw : q.Fits w) : ∃ p ∈ ps, p.Fits w := by
  induction bs generalizing q ps with
  | nil => exact exists_fits_of_any h hw
  | cons b bs ih =>
    rw [coversAt, Bool.or_eq_true, Bool.and_eq_true] at h
    obtain h | ⟨hclear, hset⟩ := h
    · exact exists_fits_of_any h hw
    · obtain hw' | hw' := Pattern.fits_fixBit hw b
      · obtain ⟨p, hp, hfits⟩ := ih hclear hw'
        exact ⟨p, (List.mem_filter.1 hp).1, hfits⟩
      · obtain ⟨p, hp, hfits⟩ := ih hset hw'
        exact ⟨p, (List.mem_filter.1 hp).1, hfits⟩

/-! ### The reserved words (R130) -/

def OpRow.pattern (row : OpRow) : Pattern := ⟨row.mask, row.value⟩

/-- The patterns of R130, one for each value of the low four bits, and with each the words of it that a row of the table
fixes in full. -/
def reservedPatterns : List (Pattern × List Word) :=
  (⟨0xFF00#16, 0x00#8 ++ 0#8⟩, [0x0000#16]) ::
  ([0b0011#4, 0b0110#4, 0b0111#4, 0b1000#4, 0b1011#4].map fun n => (⟨0xFE0F#16, 0b1001000#7 ++ 0#5 ++ n⟩, [])) ++
  ([0b0011#4, 0b0100#4, 0b0101#4, 0b0110#4, 0b0111#4, 0b1000#4, 0b1011#4].map fun n =>
    (⟨0xFE0F#16, 0b1001001#7 ++ 0#5 ++ n⟩, [])) ++
  [(⟨0xFE0F#16, 0b1001010#7 ++ 0#5 ++ 0b0100#4⟩, []),
    (⟨0xFE0F#16, 0b1001010#7 ++ 0#5 ++ 0b1001#4⟩, [0x9409#16, 0x9419#16, 0x9509#16, 0x9519#16]),
    (⟨0xFF0F#16, 0x95#8 ++ 0#4 ++ 0b1000#4⟩, [0x9508#16, 0x9518#16, 0x9588#16, 0x9598#16, 0x95A8#16, 0x95C8#16]),
    (⟨0xFF0F#16, 0x95#8 ++ 0#4 ++ 0b1011#4⟩, []),
    (⟨0xF808#16, 0b11111#5 ++ 0#7 ++ 1#1 ++ 0#3⟩, [])]

/-- The rows of the table and the reserved patterns. -/
def allPatterns : List Pattern := opcodeTable.map OpRow.pattern ++ reservedPatterns.map Prod.fst

/-- They take every word, as the bits show that tell the formats apart, then the rest. -/
theorem coversAt_allPatterns :
    coversAt [15, 14, 13, 12, 11, 10, 9, 3, 2, 1, 0, 8, 7, 6, 5, 4] ⟨0#16, 0#16⟩ allPatterns = true := by
  decide

/-- Every word fits a row of the table or a reserved pattern. -/
theorem exists_fits_allPatterns (w : Word) : ∃ p ∈ allPatterns, p.Fits w :=
  exists_fits_of_coversAt coversAt_allPatterns BitVec.and_zero

/-- The exceptions are accepted by a row. -/
theorem reservedPatterns_excepted :
    (reservedPatterns.all fun p => p.2.all fun e => opcodeTable.any (·.accepts e)) = true := by
  decide

/-- A row that does not clash with a reserved pattern has no free bit, and its word is one of the exceptions. -/
theorem reservedPatterns_clashes : ∀ p ∈ reservedPatterns, ∀ row ∈ opcodeTable,
    row.clashes p.1.mask p.1.value = true ∨ row.mask = 0xFFFF#16 ∧ row.value ∈ p.2 := by
  decide

/-- The first words that no row accepts. -/
def Reserved (w : Word) : Prop := ∃ p ∈ reservedPatterns, p.1.Fits w ∧ w ∉ p.2

theorem findRow_eq_none_iff {w : Word} : findRow w = none ↔ Reserved w := by
  rw [findRow, List.find?_eq_none]
  constructor
  · intro hnone
    obtain ⟨p, hp, hfits⟩ := exists_fits_allPatterns w
    rw [allPatterns, List.mem_append] at hp
    obtain hp | hp := hp
    · obtain ⟨row, hr, rfl⟩ := List.mem_map.1 hp
      exact absurd (OpRow.accepts_iff.2 hfits) (hnone row hr)
    · obtain ⟨q, hq, rfl⟩ := List.mem_map.1 hp
      refine ⟨q, hq, hfits, fun he => ?_⟩
      have hany := List.all_eq_true.1 (List.all_eq_true.1 reservedPatterns_excepted q hq) w he
      obtain ⟨row, hr, hacc⟩ := List.any_eq_true.1 hany
      exact hnone row hr hacc
  · rintro ⟨p, hp, hfits, hexcept⟩ row hr hacc
    obtain hclash | ⟨hmask, hvalue⟩ := reservedPatterns_clashes p hp row hr
    · rw [OpRow.not_accepts_of_clashes hclash hfits] at hacc
      cases hacc
    · rw [OpRow.accepts_iff, hmask] at hacc
      have hw : w = row.value := (BitVec.and_allOnes (x := w)).symm.trans hacc
      exact hexcept (hw ▸ hvalue)

/-- The decoder rejects a word exactly when no row accepts it. -/
theorem decodeWords_eq_reserved_iff {w w2 : Word} : decodeWords w w2 = .error (.reserved w) ↔ Reserved w := by
  rw [← findRow_eq_none_iff, decodeWords]
  cases findRow w <;> simp

/-! ### The patterns slice by slice -/

theorem fits_FF00_iff {w : Word} {hi : BitVec 8} :
    (⟨0xFF00#16, hi ++ 0#8⟩ : Pattern).Fits w ↔ w.extractLsb' 8 8 = hi := by
  have hm : 0xFF00#16 = BitVec.allOnes 8 ++ 0#8 := rfl
  rw [Pattern.Fits, eq_comm, hm, append_eq_and_append_iff]
  simp only [BitVec.and_allOnes, BitVec.and_zero, and_true, eq_comm]

theorem fits_FE0F_iff {w : Word} {op : BitVec 7} {n : BitVec 4} :
    (⟨0xFE0F#16, op ++ 0#5 ++ n⟩ : Pattern).Fits w ↔ w.extractLsb' 9 7 = op ∧ w.extractLsb' 0 4 = n := by
  have hm : 0xFE0F#16 = BitVec.allOnes 7 ++ 0#5 ++ BitVec.allOnes 4 := rfl
  rw [Pattern.Fits, eq_comm, hm, append_eq_and_append_iff, append_eq_and_append_iff]
  simp only [extractLsb'_extractLsb', Nat.reduceAdd, Nat.reduceLeDiff, BitVec.and_allOnes, BitVec.and_zero, and_true,
    eq_comm]

theorem fits_FF0F_iff {w : Word} {hi : BitVec 8} {n : BitVec 4} :
    (⟨0xFF0F#16, hi ++ 0#4 ++ n⟩ : Pattern).Fits w ↔ w.extractLsb' 8 8 = hi ∧ w.extractLsb' 0 4 = n := by
  have hm : 0xFF0F#16 = BitVec.allOnes 8 ++ 0#4 ++ BitVec.allOnes 4 := rfl
  rw [Pattern.Fits, eq_comm, hm, append_eq_and_append_iff, append_eq_and_append_iff]
  simp only [extractLsb'_extractLsb', Nat.reduceAdd, Nat.reduceLeDiff, BitVec.and_allOnes, BitVec.and_zero, and_true,
    eq_comm]

theorem fits_F808_iff {w : Word} {op : BitVec 5} {x : BitVec 1} :
    (⟨0xF808#16, op ++ 0#7 ++ x ++ 0#3⟩ : Pattern).Fits w ↔ w.extractLsb' 11 5 = op ∧ w.extractLsb' 3 1 = x := by
  have hm : 0xF808#16 = BitVec.allOnes 5 ++ 0#7 ++ BitVec.allOnes 1 ++ 0#3 := rfl
  rw [Pattern.Fits, eq_comm, hm]
  iterate 3 rw [append_eq_and_append_iff]
  simp only [extractLsb'_extractLsb', Nat.reduceAdd, Nat.reduceLeDiff, BitVec.and_allOnes, BitVec.and_zero, and_true,
    eq_comm]

theorem reserved_iff {w : Word} : Reserved w ↔
    (w.extractLsb' 8 8 = 0x00#8 ∧ w ≠ 0x0000#16) ∨
    (w.extractLsb' 9 7 = 0b1001000#7 ∧ w.extractLsb' 0 4 ∈ [0b0011#4, 0b0110#4, 0b0111#4, 0b1000#4, 0b1011#4]) ∨
    (w.extractLsb' 9 7 = 0b1001001#7 ∧
      w.extractLsb' 0 4 ∈ [0b0011#4, 0b0100#4, 0b0101#4, 0b0110#4, 0b0111#4, 0b1000#4, 0b1011#4]) ∨
    (w.extractLsb' 9 7 = 0b1001010#7 ∧ w.extractLsb' 0 4 = 0b0100#4) ∨
    (w.extractLsb' 9 7 = 0b1001010#7 ∧ w.extractLsb' 0 4 = 0b1001#4 ∧
      w ∉ [0x9409#16, 0x9419#16, 0x9509#16, 0x9519#16]) ∨
    (w.extractLsb' 8 8 = 0x95#8 ∧ w.extractLsb' 0 4 = 0b1000#4 ∧
      w ∉ [0x9508#16, 0x9518#16, 0x9588#16, 0x9598#16, 0x95A8#16, 0x95C8#16]) ∨
    (w.extractLsb' 8 8 = 0x95#8 ∧ w.extractLsb' 0 4 = 0b1011#4) ∨
    (w.extractLsb' 11 5 = 0b11111#5 ∧ w.extractLsb' 3 1 = 1#1) := by
  simp only [Reserved, reservedPatterns, List.cons_append, List.map_cons, List.map_nil, List.nil_append, List.mem_cons,
    List.not_mem_nil, or_false, exists_eq_or_imp, exists_eq_left, fits_FF00_iff, fits_FE0F_iff, fits_FF0F_iff,
    fits_F808_iff, not_false_eq_true, and_true, and_or_left, or_assoc, and_assoc, ne_eq]

/-- A reserved word is one word long: the patterns of length two all decode. -/
theorem ilen_of_reserved {w : Word} (h : Reserved w) : ilen w ≠ 2 := by
  intro hlen
  have herr : decodeWords w 0#16 = .error (.reserved w) := decodeWords_eq_reserved_iff.2 h
  obtain hpattern | hpattern := ilen_eq_two_iff.1 hlen
  · obtain hdec | hdec := decodeWords_of_ldsSts 0#16 hpattern <;> cases hdec.symm.trans herr
  · obtain hdec | hdec := decodeWords_of_jmpCall 0#16 hpattern <;> cases hdec.symm.trans herr

end Sys2Proof

namespace Sys2Proof.Machine

/-- Settles O6: the words that no row accepts are those of R130, and the fetch of one reads no second word. -/
theorem reservedFirstWordsFaultIllegalOpcode : Obligations.ReservedFirstWordsFaultIllegalOpcode := by
  refine ⟨fun w w2 => decodeWords_eq_reserved_iff.trans reserved_iff, fun s w hs hacc hw herr => ?_⟩
  have hlen := ilen_of_reserved (decodeWords_eq_reserved_iff.1 herr)
  have hword : programWord (acceptanceTest s).2.pc (acceptanceTest s).2 = .next w := by
    rw [acceptanceTest_snd]
    exact hw
  rw [step_awake hacc hs, fetch_one_word hword hlen, decoded_error _ herr, andThen_fault, acceptanceTest_snd]

end Sys2Proof.Machine
end

section
/-! SUPPORT. The bits of SREG, MCU control and the instructions that stop (spec R207, R208, R233, R286, R289, R311 to
R314), reset (R45): obligations O16, O40, O59 and O60. -/

namespace Sys2Proof.Machine

/-! ### `bset` and `bclr` -/

theorem exec_bset (b : BitVec 3) (s : State) :
    exec (.bset b) s = .next ((s.writeSreg (setBit s.sreg b true)).advance 1) := rfl

theorem exec_bclr (b : BitVec 3) (s : State) :
    exec (.bclr b) s = .next ((s.writeSreg (setBit s.sreg b false)).advance 1) := rfl

/-- One bit of SREG written, the effect on `irqInhibit` given. -/
theorem regFrame_writeSreg_setBit {s : State} {b : BitVec 3} {x inhibited : Bool}
    (h : (s.irqInhibit || (!s.sreg.getLsbD 7 && (setBit s.sreg b x).getLsbD 7)) = inhibited) :
    RegFrame { s with irqInhibit := inhibited } ((s.writeSreg (setBit s.sreg b x)).advance 1) []
      (1#8 <<< b.toNat) :=
  ⟨fun _ _ => rfl, fun _ hb => setBit_getLsbD_of_not_mask hb, rfl, fun _ => rfl, fun _ => rfl, h, rfl, rfl, rfl⟩

/-- Setting a bit of SREG inhibits interrupts only if it turns I on. -/
theorem inhibited_of_bset (s : State) (b : BitVec 3) :
    (s.irqInhibit || (!s.sreg.getLsbD 7 && (setBit s.sreg b true).getLsbD 7)) =
      if Instr.bset b = .bset 7#3 ∧ s.sreg.getLsbD 7 = false then true else s.irqInhibit := by
  have hI : (setBit s.sreg b true).getLsbD 7 = if 7 = b.toNat then true else s.sreg.getLsbD 7 :=
    setBit_getLsbD s.sreg b true 7 (by decide)
  rw [inhibit_eq_ite, hI]
  by_cases hb : b = 7#3
  · subst hb
    simp
  · have hne : 7 ≠ b.toNat := by bv_omega
    simp +contextual [hb, hne]

/-- Clearing a bit of SREG never inhibits interrupts. -/
theorem inhibited_of_bclr (s : State) (b : BitVec 3) :
    (s.irqInhibit || (!s.sreg.getLsbD 7 && (setBit s.sreg b false).getLsbD 7)) =
      if Instr.bclr b = .bset 7#3 ∧ s.sreg.getLsbD 7 = false then true else s.irqInhibit := by
  have hI : (setBit s.sreg b false).getLsbD 7 = if 7 = b.toNat then false else s.sreg.getLsbD 7 :=
    setBit_getLsbD s.sreg b false 7 (by decide)
  rw [hI]
  split <;> simp

/-- Settles O40: the written bit of SREG, and I when it is that bit. -/
theorem bsetAndBclrWriteOneSregBit : Obligations.BsetAndBclrWriteOneSregBit := by
  intro s b i x hrow
  have hbit (y : Bool) : (setBit s.sreg b y).getLsbD b.toNat = y := by
    rw [setBit_getLsbD _ _ _ _ b.isLt, if_pos rfl]
  simp only [List.mem_cons, List.not_mem_nil, or_false, Prod.mk.injEq] at hrow
  obtain ⟨rfl, rfl⟩ | ⟨rfl, rfl⟩ := hrow
  · exact ⟨_, exec_bset b s, hbit true, rfl, regFrame_writeSreg_setBit (inhibited_of_bset s b)⟩
  · exact ⟨_, exec_bclr b s, hbit false, rfl, regFrame_writeSreg_setBit (inhibited_of_bclr s b)⟩

/-! ### MCU control, the stops and reset -/

/-- Settles O59: the three next states, written out. -/
theorem nopWdrAndSleepOnlyGoOn : Obligations.NopWdrAndSleepOnlyGoOn := fun _ => ⟨rfl, rfl, rfl⟩

/-- Settles O60: the four faults, and the words that the encoder draws. -/
theorem instructionsThisDeviceLacksFault : Obligations.InstructionsThisDeviceLacksFault :=
  fun _ _ => ⟨rfl, rfl, rfl, rfl⟩

/-- Without a program the first byte that the fetch reads is refused. -/
theorem step_of_no_program {s : State} (hacc : (acceptanceTest s).1 = none) (hs : s.asleep = false)
    (hprogram : s.program = []) : step s = .refused (.programUndefined (2 * s.pc.toNat)) := by
  rw [step_awake hacc hs, acceptanceTest_snd, fetch, programWord, programByte]
  simp only [hprogram, Memory.byteAt_nil, andThen_refused]

/-- Settles O16: the values of reset, and a first step that finds no program. -/
theorem resetLeavesTheStatedValues : Obligations.ResetLeavesTheStatedValues :=
  ⟨rfl, rfl, rfl, rfl, rfl, step_of_no_program rfl rfl rfl⟩

end Sys2Proof.Machine
end

section
/-! SUPPORT. Absolute targets out of range, and the return from an interrupt entered on a stack in SRAM (spec R281, R290,
R323, R330, R332): obligations O50 and O56. -/

namespace Sys2Proof.Machine

/-! ### Targets out of range -/

/-- A call out of range faults before any push (R323). -/
theorem callTo_outside {k : Nat} (n : Nat) (s : State) (h : 0x3FFF < k) :
    callTo k n s = .fault (.targetOutOfRange s.pc k) := by
  rw [callTo, absoluteTarget_outside s h, andThen_fault]

/-- A return out of range faults after both pops. -/
theorem popReturn_target_outside {s : State} (h1 : (s.sp + 1#16).toNat ≤ 0x08FF) (h2 : (s.sp + 2#16).toNat ≤ 0x08FF)
    (h : 0x3FFF < s.poppedWord.toNat) : popReturn s = .fault (.targetOutOfRange s.pc s.poppedWord.toNat) := by
  rw [← s.afterPop_sp_next] at h2
  rw [State.poppedWord] at h ⊢
  rw [popReturn, popByte_inside s h1, andThen_next, popByte_inside _ h2, andThen_next, absoluteTarget_outside _ h,
    andThen_fault, State.afterPop_pc, State.afterPop_pc]

/-- Settles O50: jumps and calls check their target first, returns once they have popped it. -/
theorem absoluteTargetsOutOfRangeFault : Obligations.AbsoluteTargetsOutOfRangeFault := by
  intro s k
  refine ⟨fun h => ⟨jumpTo_outside s h, callTo_outside 2 s h⟩, fun h => ⟨jumpTo_outside s h, callTo_outside 1 s h⟩,
    fun h1 h2 h => ?returns⟩
  have hpop := popReturn_target_outside h1 h2 h
  exact ⟨exec_return_of_fault (by simp) hpop, exec_return_of_fault (by simp) hpop⟩

/-! ### Entry and return -/

/-- I cleared and then set leaves the other seven flags. -/
theorem setBit_setBit_getLsbD_of_lt {v : Byte} {x y : Bool} {b : Nat} (hb : b < 7) :
    (setBit (setBit v 7#3 x) 7#3 y).getLsbD b = v.getLsbD b := by
  have hlt : b < 8 := Nat.lt_succ_of_lt hb
  have hne : ¬ b = (7#3).toNat := Nat.ne_of_lt hb
  rw [setBit_getLsbD _ _ _ _ hlt, if_neg hne, setBit_getLsbD _ _ _ _ hlt, if_neg hne]

/-- Settles O56: the return finds the stack as the entry left it, and sets I, which was 0. -/
theorem interruptThenRetiComesBack : Obligations.InterruptThenRetiComesBack := by
  intro s t v hlo hhi hentry
  obtain ⟨u, hu, rfl⟩ := interruptEntry_eq_next.1 hentry
  cases eq_withReturn_of_pushReturn hu hlo hhi
  have hpop := popReturn_of_withReturn (ra := s.pc)
    (t := { s.withReturn s.pc with sreg := setBit s.sreg 7#3 false, asleep := false, pc := vectorAddr v })
    hlo hhi rfl fun _ => rfl
  have hclear : (setBit s.sreg 7#3 false).getLsbD 7 = false := setBit_getLsbD s.sreg 7#3 false 7 (by decide)
  have hset : (setBit (setBit s.sreg 7#3 false) 7#3 true).getLsbD 7 = true := setBit_getLsbD _ 7#3 true 7 (by decide)
  have hinh : (s.irqInhibit || (!(setBit s.sreg 7#3 false).getLsbD 7 &&
      (setBit (setBit s.sreg 7#3 false) 7#3 true).getLsbD 7)) = true := by
    rw [hclear, hset]
    exact Bool.or_true _
  exact ⟨_, (exec_reti _).trans (interruptReturn_eq_next.2 ⟨_, hpop, rfl⟩), rfl, rfl, fun _ => rfl, hset,
    fun _ hb => setBit_setBit_getLsbD_of_lt hb, hinh, acceptanceTest_of_not_mayAccept (not_mayAccept_of_inhibited hinh)⟩

end Sys2Proof.Machine
end
